-- ==== Sys2Proof/Word.lean ====
section
/-! DEFINITION. The word types of the PWC core (00_scope.md R12, R13; 10_state.md R45). -/

namespace Sys2Proof

/-- An 8-bit unit: an element of TXT, FRM or OUT. -/
abbrev Byte := BitVec 8

/-- A 32-bit word: a command, a register, a host access's value. -/
abbrev Word := BitVec 32

/-- A 6-bit symbol code: an element of SYM or PRM (R17). -/
abbrev Code := BitVec 6

/-- The two characters of a symbol, first character first (R7, R17). -/
abbrev Token := Byte × Byte

/-- The buffer a bit stream works on: the 1-bit field BUF of R45, 0 = PRM and 1 = FRM. -/
inductive BufSel where
  | prm
  | frm
deriving DecidableEq, Repr

end Sys2Proof
end

