-- ==== Sys2Proof/Syntax.lean ====
section
/-! DEFINITION. The commands of the PWC core: one constructor per row of spec/opcode_table.json (30_encoding.md R97), with
the operand fields of R95 at their exact widths. -/

namespace Sys2Proof

/-- A command. `decodePw` and `encodePw` are the mnemonics DECODE and ENCODE; every other constructor is its mnemonic
in lower case. -/
inductive Instr where
  | nop
  | parse
  | render
  | symdec (t0 t1 : Byte)
  | symenc (code : Code)
  | papply
  | punapply
  | pack68
  | pack86
  | pseedf
  | pseedi (seed : BitVec 16)
  | pnext
  | obfdec
  | obfenc
  | cksum (start len : Byte)
  | ckchk
  | ckgen
  | crcinit
  | crcbyte (b : Byte)
  | crcfin
  | crcsym
  | brinit (w : BitVec 4) (buf : BufSel) (start len : Byte)
  | brread (nb : Byte)
  | brmore
  | bwinit (w : BitVec 4) (buf : BufSel) (start len : Byte)
  | bwwrite (nb : Byte)
  | bwflush
  | decodePw
  | encodePw (g : Bool)
  | clrerr
deriving DecidableEq, Repr

end Sys2Proof
end

