-- ==== Sys2Proof/WellFormed.lean ====
section
/-! DEFINITION. Well-formed commands: the operands lie in the ranges their rules allow, read from the command alone
(R148, R149, R153, R154, R192). Every term of `Instr` has an encoding, since its fields have the widths of R95; one
that is not well-formed assembles (R102) and the core answers it with ILLEGAL_OPERAND (R243). -/

namespace Sys2Proof

/-- The number of elements of a bit stream's buffer, SIZE of R147. -/
def BufSel.length : BufSel → Nat
  | .prm => 31
  | .frm => 23

/-- R148, R153: a unit width of 1..8, at most 6 on PRM, and a window inside the buffer. -/
def windowWellFormed (w : BitVec 4) (buf : BufSel) (start len : Byte) : Bool :=
  1 ≤ w.toNat && w.toNat ≤ 8 && (buf != .prm || w.toNat ≤ 6) && start.toNat + len.toNat ≤ buf.length

/-- R149, R154: 1 to 32 bits. -/
def bitCountWellFormed (nb : Byte) : Bool := 1 ≤ nb.toNat && nb.toNat ≤ 32

/-- R192: a window of at least one byte inside FRM. -/
def cksumWellFormed (start len : Byte) : Bool := 1 ≤ len.toNat && start.toNat + len.toNat ≤ 23

/-- The operand ranges of every command; a command without an operand range is well-formed. -/
def Instr.wellFormed : Instr → Bool
  | .cksum start len => cksumWellFormed start len
  | .brinit w buf start len => windowWellFormed w buf start len
  | .bwinit w buf start len => windowWellFormed w buf start len
  | .brread nb => bitCountWellFormed nb
  | .bwwrite nb => bitCountWellFormed nb
  | .nop | .parse | .render | .symdec _ _ | .symenc _ | .papply | .punapply | .pack68 | .pack86 | .pseedf
  | .pseedi _ | .pnext | .obfdec | .obfenc | .ckchk | .ckgen | .crcinit | .crcbyte _ | .crcfin | .crcsym
  | .brmore | .bwflush | .decodePw | .encodePw _ | .clrerr => true

end Sys2Proof
end

