-- ==== Sys2Proof/Decode.lean ====
section
/-! DEFINITION. The opcode map of 30_encoding.md R97, the decoder of R94 and R95, and the encoder of R102. -/

namespace Sys2Proof

/-- The 30 opcodes of R97. -/
inductive Opcode where
  | nop | parse | render | symdec | symenc | papply | punapply | pack68 | pack86 | pseedf | pseedi | pnext
  | obfdec | obfenc | cksum | ckchk | ckgen | crcinit | crcbyte | crcfin | crcsym | brinit | brread | brmore
  | bwinit | bwwrite | bwflush | decodePw | encodePw | clrerr
deriving DecidableEq, Repr

/-- Why a word is no command (R94): both raise ILLEGAL_COMMAND. -/
inductive Reject where
  /-- Bits 7:0 are no opcode of R97 (R98). -/
  | unknownOpcode
  /-- The opcode is legal and a reserved bit is 1 (R99). -/
  | reservedBit
deriving DecidableEq, Repr

/-- The opcodes in the order of R97. -/
def Opcode.all : List Opcode :=
  [.nop, .parse, .render, .symdec, .symenc, .papply, .punapply, .pack68, .pack86, .pseedf, .pseedi, .pnext,
   .obfdec, .obfenc, .cksum, .ckchk, .ckgen, .crcinit, .crcbyte, .crcfin, .crcsym, .brinit, .brread, .brmore,
   .bwinit, .bwwrite, .bwflush, .decodePw, .encodePw, .clrerr]

/-- The opcode column of R97. -/
def Opcode.byte : Opcode → Byte
  | .nop => 0x00#8
  | .parse => 0x01#8
  | .render => 0x02#8
  | .symdec => 0x03#8
  | .symenc => 0x04#8
  | .papply => 0x10#8
  | .punapply => 0x11#8
  | .pack68 => 0x20#8
  | .pack86 => 0x21#8
  | .pseedf => 0x30#8
  | .pseedi => 0x31#8
  | .pnext => 0x32#8
  | .obfdec => 0x33#8
  | .obfenc => 0x34#8
  | .cksum => 0x40#8
  | .ckchk => 0x41#8
  | .ckgen => 0x42#8
  | .crcinit => 0x50#8
  | .crcbyte => 0x51#8
  | .crcfin => 0x52#8
  | .crcsym => 0x53#8
  | .brinit => 0x60#8
  | .brread => 0x61#8
  | .brmore => 0x62#8
  | .bwinit => 0x64#8
  | .bwwrite => 0x65#8
  | .bwflush => 0x66#8
  | .decodePw => 0x70#8
  | .encodePw => 0x71#8
  | .clrerr => 0x7F#8

/-- The MATCH column of R97: the opcode with every other bit 0. -/
def Opcode.matchWord (op : Opcode) : Word := op.byte.setWidth 32

/-- The MASK column of R97. -/
def Opcode.mask : Opcode → Word
  | .symdec => 0x0000FFFF#32
  | .symenc => 0xFFC0FFFF#32
  | .pseedi => 0x0000FFFF#32
  | .cksum => 0xFF0000FF#32
  | .crcbyte => 0xFF00FFFF#32
  | .brinit => 0x0000E0FF#32
  | .brread => 0xFFFF00FF#32
  | .bwinit => 0x0000E0FF#32
  | .bwwrite => 0xFFFF00FF#32
  | .encodePw => 0xFFFFFEFF#32
  | .nop | .parse | .render | .papply | .punapply | .pack68 | .pack86 | .pseedf | .pnext | .obfdec | .obfenc
  | .ckchk | .ckgen | .crcinit | .crcfin | .crcsym | .brmore | .bwflush | .decodePw | .clrerr => 0xFFFFFFFF#32

/-- The opcode whose byte is `b`, if R97 has one. -/
def Opcode.ofByte (b : Byte) : Option Opcode := Opcode.all.find? fun op => op.byte == b

/-- The BUF bit of R95: 0 = PRM, 1 = FRM. -/
def BufSel.ofBit (b : Bool) : BufSel := if b then .frm else .prm

/-- The BUF bit of R95. -/
def BufSel.bit : BufSel → BitVec 1
  | .prm => 0#1
  | .frm => 1#1

/-- Field A = w[15:8] (R93). -/
def fieldA (w : Word) : Byte := w.extractLsb' 8 8

/-- Field B = w[23:16] (R93). -/
def fieldB (w : Word) : Byte := w.extractLsb' 16 8

/-- Field C = w[31:24] (R93). -/
def fieldC (w : Word) : Byte := w.extractLsb' 24 8

/-- IMM16 = w[31:16] (R92). -/
def fieldImm16 (w : Word) : BitVec 16 := w.extractLsb' 16 16

/-- The command of opcode `op` with the operands that R95 takes from `w`. -/
def Opcode.assemble (w : Word) : Opcode → Instr
  | .nop => .nop
  | .parse => .parse
  | .render => .render
  | .symdec => .symdec ((fieldImm16 w).extractLsb' 0 8) ((fieldImm16 w).extractLsb' 8 8)
  | .symenc => .symenc ((fieldImm16 w).extractLsb' 0 6)
  | .papply => .papply
  | .punapply => .punapply
  | .pack68 => .pack68
  | .pack86 => .pack86
  | .pseedf => .pseedf
  | .pseedi => .pseedi (fieldImm16 w)
  | .pnext => .pnext
  | .obfdec => .obfdec
  | .obfenc => .obfenc
  | .cksum => .cksum (fieldA w) (fieldB w)
  | .ckchk => .ckchk
  | .ckgen => .ckgen
  | .crcinit => .crcinit
  | .crcbyte => .crcbyte ((fieldImm16 w).extractLsb' 0 8)
  | .crcfin => .crcfin
  | .crcsym => .crcsym
  | .brinit => .brinit ((fieldA w).extractLsb' 0 4) (BufSel.ofBit ((fieldA w).getLsbD 4)) (fieldB w) (fieldC w)
  | .brread => .brread (fieldA w)
  | .brmore => .brmore
  | .bwinit => .bwinit ((fieldA w).extractLsb' 0 4) (BufSel.ofBit ((fieldA w).getLsbD 4)) (fieldB w) (fieldC w)
  | .bwwrite => .bwwrite (fieldA w)
  | .bwflush => .bwflush
  | .decodePw => .decodePw
  | .encodePw => .encodePw ((fieldA w).getLsbD 0)
  | .clrerr => .clrerr

/-- Decoding a command word (R94): the opcode first, then the reserved bits. Total, and every word that is no command
is rejected by name. -/
def decode (w : Word) : Except Reject Instr :=
  match Opcode.ofByte (w.extractLsb' 0 8) with
  | none => .error .unknownOpcode
  | some op => if w &&& op.mask = op.matchWord then .ok (op.assemble w) else .error .reservedBit

/-- The opcode of a command. -/
def Instr.opcode : Instr → Opcode
  | .nop => .nop
  | .parse => .parse
  | .render => .render
  | .symdec _ _ => .symdec
  | .symenc _ => .symenc
  | .papply => .papply
  | .punapply => .punapply
  | .pack68 => .pack68
  | .pack86 => .pack86
  | .pseedf => .pseedf
  | .pseedi _ => .pseedi
  | .pnext => .pnext
  | .obfdec => .obfdec
  | .obfenc => .obfenc
  | .cksum _ _ => .cksum
  | .ckchk => .ckchk
  | .ckgen => .ckgen
  | .crcinit => .crcinit
  | .crcbyte _ => .crcbyte
  | .crcfin => .crcfin
  | .crcsym => .crcsym
  | .brinit _ _ _ _ => .brinit
  | .brread _ => .brread
  | .brmore => .brmore
  | .bwinit _ _ _ _ => .bwinit
  | .bwwrite _ => .bwwrite
  | .bwflush => .bwflush
  | .decodePw => .decodePw
  | .encodePw _ => .encodePw
  | .clrerr => .clrerr

/-- An operand at bit `lo` of the command word. -/
def place {n : Nat} (v : BitVec n) (lo : Nat) : Word := v.setWidth 32 <<< lo

/-- The operand bits of a command (R102). -/
def Instr.operandBits : Instr → Word
  | .symdec t0 t1 => place t0 16 ||| place t1 24
  | .symenc code => place code 16
  | .pseedi seed => place seed 16
  | .crcbyte b => place b 16
  | .cksum start len => place start 8 ||| place len 16
  | .brinit w buf start len => place w 8 ||| place buf.bit 12 ||| place start 16 ||| place len 24
  | .bwinit w buf start len => place w 8 ||| place buf.bit 12 ||| place start 16 ||| place len 24
  | .brread nb => place nb 8
  | .bwwrite nb => place nb 8
  | .encodePw g => place (BitVec.ofBool g) 8
  | .nop | .parse | .render | .papply | .punapply | .pack68 | .pack86 | .pseedf | .pnext | .obfdec | .obfenc
  | .ckchk | .ckgen | .crcinit | .crcfin | .crcsym | .brmore | .bwflush | .decodePw | .clrerr => 0#32

/-- The word of a command (R102): the opcode and its operands. -/
def encode (i : Instr) : Word := place i.opcode.byte 0 ||| i.operandBits

/-- The word the host's opcode table describes by its `nbits` low bits; the bits above are 0. -/
def tableWord (nbits w : Nat) : Word := BitVec.ofNat 32 (w % 2 ^ nbits)

/-- The command the decoder reads from a word of the host's opcode table. -/
def decodeTableWord (nbits w : Nat) : Option Instr :=
  match decode (tableWord nbits w) with
  | .ok i => some i
  | .error _ => none

end Sys2Proof
end

