-- ==== Sys2Proof/Config.lean ====
section
/-! DEFINITION. The constants of the hardware: the read-only tables and CRC parameters of 00_scope.md R7 to R11, their
constraints, and the fixed sizes of R12. -/

namespace Sys2Proof

/-- PRNG_MSEED of R12: the seeding constant 161803398. -/
def prngMseed : Word := 0x09A4EC86#32

/-- PRNG_MBIG of R12: the wrap-around correction constant. -/
def prngMbig : Word := 0x7FFFFFFF#32

/-- The read-only tables and parameters (R7 to R11; 10_state.md R46). They are fixed before the first command and
never change. -/
structure Tables where
  /-- SYM_TABLE (R7): the token of each code. -/
  symTable : Vector Token 64
  /-- P (R8): a permutation of 0..29. -/
  perm : Vector (Fin 30) 30
  /-- SYM_GLYPH (R9): the UTF-8 bytes of the display character of each code. -/
  symGlyph : Vector (List Byte) 64
  /-- CRC_TABLE (R10). -/
  crcTable : Vector Word 256
  /-- CRC_INIT (R11). -/
  crcInit : Word
  /-- CRC_XOROUT (R11). -/
  crcXorOut : Word
deriving DecidableEq, Repr

/-- R7 (b): printable ASCII that is no lower-case letter. -/
abbrev tokenByteOk (b : Byte) : Prop :=
  0x21 ≤ b.toNat ∧ b.toNat ≤ 0x7E ∧ ¬ (0x61 ≤ b.toNat ∧ b.toNat ≤ 0x7A)

/-- R7: (a) the entries are pairwise distinct, (b) every byte is an allowed character. -/
abbrev Tables.SymTableOk (t : Tables) : Prop :=
  (∀ i j : Fin 64, t.symTable[i] = t.symTable[j] → i = j) ∧
  ∀ i : Fin 64, tokenByteOk t.symTable[i].1 ∧ tokenByteOk t.symTable[i].2

/-- R8: P is a permutation of 0..29, that is, no two entries are equal, and has no fixed point. -/
abbrev Tables.PermOk (t : Tables) : Prop :=
  (∀ i j : Fin 30, t.perm[i] = t.perm[j] → i = j) ∧ ∀ i : Fin 30, t.perm[i] ≠ i

/-- A byte that continues a UTF-8 sequence. -/
def isUtf8Tail (b : Byte) : Bool := 0x80 ≤ b.toNat && b.toNat ≤ 0xBF

/-- The UTF-8 encoding of exactly one character (R9 names UTF-8; the well-formed sequences are the Unicode
standard's). PRESUMED, log entry 6. -/
def isUtf8Char : List Byte → Bool
  | [a] => a.toNat ≤ 0x7F
  | [a, b] => 0xC2 ≤ a.toNat && a.toNat ≤ 0xDF && isUtf8Tail b
  | [a, b, c] =>
      isUtf8Tail b && isUtf8Tail c && 0xE0 ≤ a.toNat && a.toNat ≤ 0xEF &&
      (a.toNat != 0xE0 || 0xA0 ≤ b.toNat) && (a.toNat != 0xED || b.toNat ≤ 0x9F)
  | [a, b, c, d] =>
      isUtf8Tail b && isUtf8Tail c && isUtf8Tail d && 0xF0 ≤ a.toNat && a.toNat ≤ 0xF4 &&
      (a.toNat != 0xF0 || 0x90 ≤ b.toNat) && (a.toNat != 0xF4 || b.toNat ≤ 0x8F)
  | _ => false

/-- R9: each entry is one UTF-8 character, and the entries are pairwise distinct. -/
abbrev Tables.GlyphOk (t : Tables) : Prop :=
  (∀ i j : Fin 64, t.symGlyph[i] = t.symGlyph[j] → i = j) ∧
  ∀ i : Fin 64, isUtf8Char t.symGlyph[i] = true

/-- The constraints the spec puts on the tables (R7, R8, R9; 70_reset_and_hazards.md R263). The CRC parameters have
none. -/
abbrev Tables.Valid (t : Tables) : Prop := t.SymTableOk ∧ t.PermOk ∧ t.GlyphOk

/-- One round of the default CRC table: shift right, XOR the polynomial if the bit shifted out was 1 (R10). -/
def crcRound (c : Word) : Word :=
  if c.getLsbD 0 then (c >>> 1) ^^^ 0xEDB88320#32 else c >>> 1

/-- Entry `n` of the default CRC_TABLE: 8 rounds from `n` (R10). -/
def crcEntry (n : Nat) : Word :=
  (List.range 8).foldl (fun c _ => crcRound c) (BitVec.ofNat 32 n)

/-- The default CRC_TABLE of R10. -/
def crcTableDefault : Vector Word 256 := Vector.ofFn fun n => crcEntry n.val

/-- SYM_TABLE as the implementation has it: an open parameter (R7), so nothing about it is known here. -/
opaque Config.symTable : Vector Token 64

/-- P as the implementation has it: an open parameter (R8). -/
opaque Config.perm : Vector (Fin 30) 30

/-- SYM_GLYPH as the implementation has it: an open parameter (R9). -/
opaque Config.symGlyph : Vector (List Byte) 64

/-- The tables of the machine after reset: the open parameters uninterpreted, the CRC parameters at the defaults the
spec gives (R10, R11). DESIGN CHOICE, log entry 7: statements range over every value of the State field that
holds them. -/
def Config.tables : Tables where
  symTable := Config.symTable
  perm := Config.perm
  symGlyph := Config.symGlyph
  crcTable := crcTableDefault
  crcInit := 0xFFFFFFFF#32
  crcXorOut := 0xFFFFFFFF#32

end Sys2Proof
end

