-- ==== Sys2Proof/Machine/State.lean ====
section
/-! DEFINITION. The architectural state of the PWC core (10_state.md R20), its reset values (R48), the locations of the
host port (20_memory.md R62) and the reasons a step can stop. -/

namespace Sys2Proof.Machine

/-- The error codes that a command can report (60_exceptions.md R236). Codes 9..15 are never written, so they have
no name (log entry 10). -/
inductive ErrCode where
  | ok
  | invalidLength
  | invalidSymbol
  | illegalCommand
  | illegalOperand
  | fieldRange
  | notSeeded
  | notInit
  | bufOverflow
deriving DecidableEq, Repr

/-- The fields of STATUS (R24). Bits 31:12 are reserved and hold nothing. -/
structure Status where
  err : ErrCode
  ckdone : Bool
  ckok : Bool
  seeded : Bool
  sticky : Bool
  firsterr : ErrCode
deriving DecidableEq, Repr

/-- The generator of the Stream Obfuscator: ST (R44) and the cursors of PCUR, each 0..55 (R36). -/
structure Gen where
  st : Vector Word 56
  c1 : Fin 56
  c2 : Fin 56
deriving DecidableEq, Repr

/-- A bit stream record, BR or BW (R45). `stop` is the field END. -/
structure BitStream where
  act : Bool
  buf : BufSel
  w : BitVec 4
  idx : BitVec 8
  stop : BitVec 8
  n : BitVec 6
  acc : BitVec 64
deriving DecidableEq, Repr

/-- A location of the host register map (R62). -/
inductive Loc where
  | cmd
  | status
  | res
  | opr
  | txtlen
  | outlen
  | cksum
  | crc
  | revive
  | pcur
  | brstat
  | bwstat
  | txt (i : Fin 256)
  | sym (i : Fin 30)
  | prm (i : Fin 31)
  | frm (i : Fin 23)
  | out (i : Fin 65)
  | st (i : Fin 56)
  | perm (i : Fin 30)
  | symTable (c : Fin 64)
  | crcTable (n : Fin 256)
deriving DecidableEq, Repr

/-- What the host does to the core: one access of the register port at a byte address, with its width in bytes
(R15, R61), or a reset between commands (70_reset_and_hazards.md R260). -/
inductive HostEvent where
  | read (addr : BitVec 16) (width : Nat)
  | write (addr : BitVec 16) (width : Nat) (v : Word)
  | reset
deriving DecidableEq, Repr

/-- The state of the machine. Every field but the last three is a piece of state that R20 lists. `cfg` holds the
constants of the hardware (R46), which no step changes. `host` and `rdata` are the model's own: the host's accesses
still to come, oldest first (DESIGN CHOICE, log entry 1), and what the most recent access returned (DESIGN CHOICE, log
entry 2). -/
structure State where
  status : Status
  res : Word
  opr : Word
  txtlen : BitVec 9
  outlen : BitVec 7
  cksum : Byte
  crc : Word
  revive : BitVec 30
  gen : Gen
  br : BitStream
  bw : BitStream
  txt : Vector Byte 256
  sym : Vector Code 30
  prm : Vector Code 31
  frm : Vector Byte 23
  out : Vector Byte 65
  cfg : Tables
  host : List HostEvent
  rdata : Option Word
deriving DecidableEq, Repr

/-- The machine has no fault: an error is a status code and the core goes on (R251, R252). No constructor. -/
inductive Fault
deriving DecidableEq, Repr

/-- Why a step gives no next state. -/
inductive Refusal where
  /-- Raised by `exec` for a command without a meaning. Safe. No arm raises it. -/
  | notModelled (mnemonic : String)
  /-- Raised by `serve` for a host access that is not 4 bytes wide: a host bus error, which has no successful step
  (R61, R65). Safe. -/
  | busWidth
  /-- Raised by `serve` for a misaligned host access: a host bus error (R61, R65). Safe. -/
  | busMisaligned
  /-- Raised by `serve` for a host access of an unmapped address: a host bus error (R61, R65). Safe. -/
  | busUnmapped
deriving DecidableEq, Repr

/-- The failure of a command: the error code and the information it leaves in RES (R236). -/
structure CmdError where
  code : ErrCode
  info : Word
deriving DecidableEq, Repr

/-- What the body of a command gives: the state with its effects, or the error it raises. -/
abbrev CmdResult := Except CmdError State

/-- STATUS = 0 (R48). -/
def Status.reset : Status where
  err := .ok
  ckdone := false
  ckok := false
  seeded := false
  sticky := false
  firsterr := .ok

/-- ST all 0, C1 = C2 = 0 (R48). -/
def Gen.reset : Gen where
  st := Vector.replicate 56 0#32
  c1 := 0
  c2 := 0

/-- BR and BW all 0 (R48). -/
def BitStream.reset : BitStream where
  act := false
  buf := .prm
  w := 0#4
  idx := 0#8
  stop := 0#8
  n := 0#6
  acc := 0#64

/-- The machine right after reset (R48). The tables are those of the implementation (R46, R263), and the host has made
no access yet. -/
def State.reset : State where
  status := Status.reset
  res := 0#32
  opr := 0#32
  txtlen := 0#9
  outlen := 0#7
  cksum := 0#8
  crc := 0#32
  revive := 0#30
  gen := Gen.reset
  br := BitStream.reset
  bw := BitStream.reset
  txt := Vector.replicate 256 0#8
  sym := Vector.replicate 30 0#6
  prm := Vector.replicate 31 0#6
  frm := Vector.replicate 23 0#8
  out := Vector.replicate 65 0#8
  cfg := Config.tables
  host := []
  rdata := none

end Sys2Proof.Machine
end

