-- ==== Sys2Proof/Machine/Ops.lean ====
section
/-! DEFINITION. The operations that the commands share: ending a command with success or with an error, access to the
elements of PRM and FRM, and the stream of a sequence of units. -/

namespace Sys2Proof.Machine

/-- The error effects of a failing command, in full (60_exceptions.md R238). This is all an error does: no trap is
entered and there is nothing to return from (R251, R252). -/
def raise (e : CmdError) (s : State) : State :=
  { s with
    status :=
      { s.status with
        firsterr := if s.status.sticky then s.status.firsterr else e.code
        sticky := true
        err := e.code }
    res := e.info }

/-- A successful command leaves ERR = 0 (R237). -/
def succeed (s : State) : State := { s with status := { s.status with err := .ok } }

/-- The end of every command (R16, R235, R237): its effects with ERR = 0, or the error effects alone, made on the state
`s` before the command. -/
def complete (s : State) (r : CmdResult) : Host.Outcome State Fault Refusal :=
  match r with
  | .ok t => .next (succeed t)
  | .error e => .next (raise e s)

/-- SIZE of 43_repacker.md R147. -/
def bufSize : BufSel → Nat
  | .prm => 31
  | .frm => 23

/-- Element `i` of BUFSEL(b) (R147), zero-extended to 8 bits. There is no element at or above SIZE, and no record that
a run reaches has one in its window (log entry 5). -/
def bufRead (s : State) (b : BufSel) (i : Nat) : Byte :=
  match b with
  | .prm => (s.prm[i]?.getD 0#6).setWidth 8
  | .frm => s.frm[i]?.getD 0#8

/-- Store a unit in element `i` of BUFSEL(b) (R152). -/
def bufWrite (s : State) (b : BufSel) (i : Nat) (v : Byte) : State :=
  match b with
  | .prm => { s with prm := s.prm.setIfInBounds i (v.setWidth 6) }
  | .frm => { s with frm := s.frm.setIfInBounds i v }

/-- STREAM(u, f): unit `j` supplies stream bits `f*j` and up (R140). -/
def stream (f : Nat) : List Nat → Nat
  | [] => 0
  | u :: us => u + (stream f us) <<< f

/-- Unit `m` of width `t` of a stream (R141). -/
def unitAt (b t m : Nat) : Nat := (b >>> (t * m)) % 2 ^ t

/-- REPACK(u, f, t): as many units of width `t` as hold the whole stream, the last zero-padded (R141). -/
def repack (u : List Nat) (f t : Nat) : List Nat :=
  (List.range ((u.length * f + (t - 1)) / t)).map (unitAt (stream f u) t)

end Sys2Proof.Machine
end

