-- ==== Sys2Proof/Machine/Flags.lean ====
section
/-! DEFINITION. STATUS and the other packed registers: the codes of 60_exceptions.md R236, the words that the host reads
(10_state.md R24, R36, R37, R38), and the STATUS updates that commands share. -/

namespace Sys2Proof.Machine

/-- The code column of R236. -/
def ErrCode.code : ErrCode → BitVec 4
  | .ok => 0#4
  | .invalidLength => 1#4
  | .invalidSymbol => 2#4
  | .illegalCommand => 3#4
  | .illegalOperand => 4#4
  | .fieldRange => 5#4
  | .notSeeded => 6#4
  | .notInit => 7#4
  | .bufOverflow => 8#4

/-- The word STATUS (R24). -/
def Status.word (st : Status) : Word :=
  place st.err.code 0 ||| place (BitVec.ofBool st.ckdone) 4 ||| place (BitVec.ofBool st.ckok) 5 |||
    place (BitVec.ofBool st.seeded) 6 ||| place (BitVec.ofBool st.sticky) 7 ||| place st.firsterr.code 8

/-- The word PCUR (R36). -/
def Gen.pcurWord (g : Gen) : Word :=
  place (BitVec.ofNat 6 g.c1.val) 0 ||| place (BitVec.ofNat 6 g.c2.val) 8

/-- BR.IDX < BR.END or BR.N > 0: the reader has more data (R37, R151). -/
def BitStream.hasMore (b : BitStream) : Bool := b.idx.toNat < b.stop.toNat || 0 < b.n.toNat

/-- The bits that BRSTAT and BWSTAT have in common (R37, R38). -/
def BitStream.statWord (b : BitStream) : Word :=
  place b.idx 0 ||| place b.stop 8 ||| place b.n 16 ||| place b.w 24 ||| place b.buf.bit 28 |||
    place (BitVec.ofBool b.act) 31

/-- The word BRSTAT (R37): bit 30 is MORE. -/
def brstatWord (b : BitStream) : Word := b.statWord ||| place (BitVec.ofBool (b.act && b.hasMore)) 30

/-- The word BWSTAT (R38). -/
def bwstatWord (b : BitStream) : Word := b.statWord

/-- The outcome of a checksum comparison (R26): CKDONE and CKOK. -/
def Status.compared (st : Status) (equal : Bool) : Status := { st with ckdone := true, ckok := equal }

/-- A seeding has run (R27). -/
def Status.seed (st : Status) : Status := { st with seeded := true }

/-- STICKY and FIRSTERR back to 0 (R28, R221). -/
def Status.clearSticky (st : Status) : Status := { st with sticky := false, firsterr := .ok }

end Sys2Proof.Machine
end

