-- ==== Sys2Proof/Machine/Operands.lean ====
section
/-! DEFINITION. The operand checks that a command makes on its own word before it looks at the state (30_encoding.md R94,
R95): each raises ILLEGAL_OPERAND with RES = the word (60_exceptions.md R243). -/

namespace Sys2Proof.Machine

/-- The operands of BRINIT and BWINIT are legal (R148, R153). -/
def windowLegal (w : BitVec 4) (buf : BufSel) (start len : Byte) : Bool :=
  if w.toNat < 1 ∨ w.toNat > 8 then false
  else if buf = .prm ∧ w.toNat > 6 then false
  else if start.toNat + len.toNat > bufSize buf then false
  else true

/-- The operand of BRREAD and BWWRITE is legal (R149, R154). -/
def bitCountLegal (nb : Byte) : Bool :=
  if nb.toNat < 1 ∨ nb.toNat > 32 then false else true

/-- The operands of CKSUM are legal (R192). -/
def cksumWindowLegal (start len : Byte) : Bool :=
  if len.toNat < 1 ∨ start.toNat + len.toNat > 23 then false else true

/-- The ILLEGAL_OPERAND failure of a command (R236: RES = the command word). -/
def illegalOperand (i : Instr) : CmdError := { code := .illegalOperand, info := encode i }

/-- `mask(n)` of 00_scope.md R14 as an operand of `k` bits. -/
def maskBits (k n : Nat) : BitVec k := BitVec.ofNat k (2 ^ n - 1)

end Sys2Proof.Machine
end

