-- ==== Sys2Proof/Machine/Checksum.lean ====
section
/-! DEFINITION. The Checksum and CRC engine (45_checksum_crc.md): CKSUM, CKCHK, CKGEN, CRCINIT, CRCBYTE, CRCFIN, CRCSYM. -/

namespace Sys2Proof.Machine

/-- The little-endian pairs after the first byte and a trailing odd byte, summed (R190). -/
def pairSum : List Byte → Nat
  | lo :: hi :: rest => (lo.toNat ||| (hi.toNat <<< 8)) + pairSum rest
  | [b] => b.toNat
  | [] => 0

/-- The sum of R190 before any fold: the first byte and the pairs after it. -/
def chkSum : List Byte → Nat
  | [] => 0
  | b :: rest => b.toNat + pairSum rest

/-- One fold to 16 bits (R190). -/
def fold16 (n : Nat) : Nat := n % 2 ^ 16 + n / 2 ^ 16

/-- One fold to 8 bits (R190). -/
def fold8 (n : Nat) : Nat := n % 2 ^ 8 + n / 2 ^ 8

/-- CHK (R190): two folds to 16 bits, two to 8 bits, complemented. -/
def chk (code : List Byte) : Byte := ~~~ BitVec.ofNat 8 (fold8 (fold8 (fold16 (fold16 (chkSum code)))))

/-- FRM[start .. start+len-1]. -/
def frameWindow (frm : Vector Byte 23) (start len : Nat) : List Byte := (frm.toList.drop start).take len

/-- CHK(FRM[1..22]), the checksum of the frame (R193). -/
def frameChk (frm : Vector Byte 23) : Byte := chk (frameWindow frm 1 22)

/-- A checksum goes to CKSUM and RES (R192, R193, R194). -/
def putCksum (c : Byte) (s : State) : State := { s with cksum := c, res := c.setWidth 32 }

/-- CKSUM (R192). -/
def execCksum (start len : Byte) (s : State) : Host.Outcome State Fault Refusal :=
  complete s
    (if cksumWindowLegal start len then .ok (putCksum (chk (frameWindow s.frm start.toNat len.toNat)) s)
    else .error (illegalOperand (.cksum start len)))

/-- The body of CKCHK (R193), also a step of DECODE. A mismatch is no error (60_exceptions.md R248). -/
def ckchkBody (s : State) : State :=
  { putCksum (frameChk s.frm) s with status := s.status.compared (frameChk s.frm == s.frm[(0 : Fin 23)]) }

/-- CKCHK (R193). -/
def execCkchk (s : State) : Host.Outcome State Fault Refusal := complete s (.ok (ckchkBody s))

/-- The body of CKGEN (R194), also a step of ENCODE. -/
def ckgenBody (s : State) : State :=
  { putCksum (frameChk s.frm) s with
    frm := s.frm.set (0 : Fin 23) (frameChk s.frm)
    status := s.status.compared true }

/-- CKGEN (R194). -/
def execCkgen (s : State) : Host.Outcome State Fault Refusal := complete s (.ok (ckgenBody s))

/-- CRCUPD (R199). -/
def crcUpd (cfg : Tables) (crc : Word) (b : Byte) : Word :=
  cfg.crcTable[((crc ^^^ b.setWidth 32).setWidth 8).toNat]'(by
    have := ((crc ^^^ b.setWidth 32).setWidth 8).isLt; omega) ^^^ (crc >>> 8)

/-- CRCINIT (R201). -/
def execCrcinit (s : State) : Host.Outcome State Fault Refusal :=
  complete s (.ok { s with crc := s.cfg.crcInit })

/-- CRCBYTE (R202). -/
def execCrcbyte (b : Byte) (s : State) : Host.Outcome State Fault Refusal :=
  complete s (.ok { s with crc := crcUpd s.cfg s.crc b })

/-- CRCFIN (R203). -/
def execCrcfin (s : State) : Host.Outcome State Fault Refusal :=
  complete s (.ok { s with res := s.crc ^^^ s.cfg.crcXorOut })

/-- SYM_GLYPH[c]. -/
def glyphOf (cfg : Tables) (c : Code) : List Byte := cfg.symGlyph[c.toNat]'(by have := c.isLt; omega)

/-- GLYPHSTREAM (R204). -/
def glyphStream (cfg : Tables) (sym : Vector Code 30) : List Byte := sym.toList.flatMap (glyphOf cfg)

/-- The CRC register after the glyph bytes of SYM (R205). -/
def symCrc (cfg : Tables) (sym : Vector Code 30) : Word :=
  (glyphStream cfg sym).foldl (crcUpd cfg) cfg.crcInit

/-- The body of CRCSYM (R205), also a step of DECODE. REVIVE is 30 bits wide: it keeps bits 29:0. -/
def crcsymBody (s : State) : State :=
  { s with
    crc := symCrc s.cfg s.sym
    res := symCrc s.cfg s.sym ^^^ s.cfg.crcXorOut
    revive := (symCrc s.cfg s.sym ^^^ s.cfg.crcXorOut).setWidth 30 }

/-- CRCSYM (R205). -/
def execCrcsym (s : State) : Host.Outcome State Fault Refusal := complete s (.ok (crcsymBody s))

end Sys2Proof.Machine
end

