-- ==== Sys2Proof/Machine/Obfuscator.lean ====
section
/-! DEFINITION. The Stream Obfuscator (44_obfuscator.md): PSEEDF, PSEEDI, PNEXT, OBFDEC, OBFENC. ST elements are 32-bit
two's complement, so `s32` of 00_scope.md R14 is the wrap of `BitVec 32`. -/

namespace Sys2Proof.Machine

/-- FIX (R171). -/
def fix (t : Word) : Word := (t.sshiftRight 31 &&& prngMbig) + t

/-- An index of ST. Every index that R172 and R176 form is below 56. -/
def stIndex (x : Nat) : Fin 56 := Fin.ofNat 56 x

/-- One iteration of the seeding loop of R172, on (ST, seedp, value). -/
def seedStep (a : Vector Word 56 × Word × Word) (x : Nat) : Vector Word 56 × Word × Word :=
  (a.1.set (stIndex (x * 21 % 55)) a.2.2, a.2.2, fix (a.2.1 - a.2.2))

/-- The seeding loop of R172 (log entry 11): `value` starts at 1, ST[55] at `seedp`, x runs from 1 to 55. ST[55]
and the loop write every element (R173), so nothing remains of the array it starts from. -/
def seedLoop (seedp : Word) : Vector Word 56 :=
  ((List.range' 1 55).foldl seedStep ((Vector.replicate 56 0#32).set (stIndex 55) seedp, seedp, 1#32)).1

/-- One warm-up step of R172. -/
def warmStep (st : Vector Word 56) (x : Nat) : Vector Word 56 :=
  st.set (stIndex x) (fix (st[stIndex x] - st[stIndex ((x + 30) % 55 + 1)]))

/-- One warm-up pass of R172: x runs from 0 to 55. -/
def warmPass (st : Vector Word 56) : Vector Word 56 := (List.range 56).foldl warmStep st

/-- The generator after SEED(S) (R172): the whole of it is set. -/
def seedGen (seed : BitVec 16) : Gen where
  st := (List.range 4).foldl (fun st _ => warmPass st) (seedLoop (prngMseed - seed.setWidth 32))
  c1 := 0
  c2 := 31

/-- A cursor advanced (R176): 55 wraps to 1. -/
def advance (c : Fin 56) : Fin 56 := if c.val + 1 > 55 then 1 else stIndex (c.val + 1)

/-- NEXT() of R176 on a seeded generator: the value, and the generator after it. -/
def nextGen (g : Gen) : Word × Gen :=
  let c1 := advance g.c1
  let c2 := advance g.c2
  let d := g.st[c1] - g.st[c2]
  let v := if d.slt 0#32 then d + prngMbig else d
  (v, { st := g.st.set c1 v, c1 := c1, c2 := c2 })

/-- The seed of a frame: FRM[0] | FRM[1] << 8 (R172, R174). -/
def frameSeed (frm : Vector Byte 23) : BitVec 16 :=
  frm[(0 : Fin 23)].setWidth 16 ||| (frm[(1 : Fin 23)].setWidth 16 <<< 8)

/-- SEED(S) on the machine (R172): the generator and SEEDED. -/
def seedBody (seed : BitVec 16) (s : State) : State :=
  { s with gen := seedGen seed, status := s.status.seed }

/-- PSEEDF (R174). -/
def execPseedf (s : State) : Host.Outcome State Fault Refusal :=
  complete s (.ok (seedBody (frameSeed s.frm) s))

/-- PSEEDI (R175). -/
def execPseedi (seed : BitVec 16) (s : State) : Host.Outcome State Fault Refusal :=
  complete s (.ok (seedBody seed s))

/-- PNEXT (R177). -/
def execPnext (s : State) : Host.Outcome State Fault Refusal :=
  complete s
    (if !s.status.seeded then .error { code := .notSeeded, info := encode .pnext }
    else .ok { s with res := (nextGen s.gen).1, gen := (nextGen s.gen).2 })

/-- `(FRM[i] - k) & 0xFF` (R180). -/
def subKey (b : Byte) (k : Word) : Byte := (b.setWidth 32 - k).setWidth 8

/-- `(FRM[i] + k) & 0xFF` (R181). -/
def addKey (b : Byte) (k : Word) : Byte := (b.setWidth 32 + k).setWidth 8

/-- One turn of the loop of R180 and R181: draw a keystream value and combine it with FRM[i]. -/
def combineStep (f : Byte → Word → Byte) (a : Gen × Vector Byte 23) (i : Nat) : Gen × Vector Byte 23 :=
  let r := nextGen a.1
  (r.2, a.2.set (Fin.ofNat 23 i) (f a.2[Fin.ofNat 23 i] r.1))

/-- The loop of R180 and R181: i runs from 2 to 22. -/
def combine (f : Byte → Word → Byte) (g : Gen) (frm : Vector Byte 23) : Gen × Vector Byte 23 :=
  (List.range' 2 21).foldl (combineStep f) (g, frm)

/-- The tail mask (R179): the low 4 bits of FRM[22] stay. -/
def tailMask (frm : Vector Byte 23) : Vector Byte 23 :=
  frm.set (22 : Fin 23) (frm[(22 : Fin 23)] &&& 0x0F#8)

/-- The bodies of OBFDEC and OBFENC (R180, R181): seed from the frame, combine, mask. -/
def obfuscate (f : Byte → Word → Byte) (s : State) : State :=
  let t := seedBody (frameSeed s.frm) s
  let r := combine f t.gen t.frm
  { t with gen := r.1, frm := tailMask r.2 }

/-- The body of OBFDEC (R180). -/
def obfdecBody (s : State) : State := obfuscate subKey s

/-- The body of OBFENC (R181). -/
def obfencBody (s : State) : State := obfuscate addKey s

/-- OBFDEC (R180). -/
def execObfdec (s : State) : Host.Outcome State Fault Refusal := complete s (.ok (obfdecBody s))

/-- OBFENC (R181). -/
def execObfenc (s : State) : Host.Outcome State Fault Refusal := complete s (.ok (obfencBody s))

end Sys2Proof.Machine
end

