-- ==== Sys2Proof/Machine/Permutation.lean ====
section
/-! DEFINITION. The Permutation Stage (42_permutation.md): PAPPLY, PUNAPPLY. -/

namespace Sys2Proof.Machine

/-- The body of PAPPLY (R131): PRM[i] <- SYM[P[i]] for i = 0..29; PRM[30] stays. -/
def papplyBody (s : State) : State :=
  { s with prm := Vector.ofFn fun i => if h : i.val < 30 then s.sym[s.cfg.perm[i.val]] else s.prm[i] }

/-- PAPPLY (R131). -/
def execPapply (s : State) : Host.Outcome State Fault Refusal := complete s (.ok (papplyBody s))

/-- The elements `t` of R132, written in the order i = 0..29. Where P is a permutation every one is written;
where it is none, which R8 excludes, an element that is not written keeps the value it has in `t` (log entry 4). -/
def unpermuted (cfg : Tables) (prm : Vector Code 31) (t : Vector Code 30) : Vector Code 30 :=
  (List.range 30).foldl (fun t i => t.set cfg.perm[Fin.ofNat 30 i] prm[Fin.ofNat 31 i]) t

/-- The body of PUNAPPLY (R132): SYM[P[i]] <- PRM[i] for i = 0..29. -/
def punapplyBody (s : State) : State := { s with sym := unpermuted s.cfg s.prm s.sym }

/-- PUNAPPLY (R132). -/
def execPunapply (s : State) : Host.Outcome State Fault Refusal := complete s (.ok (punapplyBody s))

end Sys2Proof.Machine
end

