-- ==== Sys2Proof/Machine/Repacker.lean ====
section
/-! DEFINITION. The Bit Repacker (43_repacker.md): PACK68, PACK86, the bit reader BRINIT, BRREAD, BRMORE and the bit
writer BWINIT, BWWRITE, BWFLUSH. -/

namespace Sys2Proof.Machine

/-- The body of PACK68 (R142): FRM = REPACK(PRM[0..29], 6, 8). -/
def pack68Body (s : State) : State :=
  { s with
    frm := Vector.ofFn fun m =>
      BitVec.ofNat 8 ((repack ((s.prm.toList.take 30).map BitVec.toNat) 6 8).getD m.val 0) }

/-- PACK68 (R142). -/
def execPack68 (s : State) : Host.Outcome State Fault Refusal := complete s (.ok (pack68Body s))

/-- The body of PACK86 (R144): PRM = REPACK(FRM[0..22], 8, 6). -/
def pack86Body (s : State) : State :=
  { s with
    prm := Vector.ofFn fun j => BitVec.ofNat 6 ((repack (s.frm.toList.map BitVec.toNat) 8 6).getD j.val 0) }

/-- PACK86 (R144). -/
def execPack86 (s : State) : Host.Outcome State Fault Refusal := complete s (.ok (pack86Body s))

/-- A record just initialised (R148, R153). -/
def openStream (w : BitVec 4) (buf : BufSel) (start len : Byte) : BitStream where
  act := true
  buf := buf
  w := w
  idx := start
  stop := start + len
  n := 0#6
  acc := 0#64

/-- BRINIT (R148). -/
def execBrinit (w : BitVec 4) (buf : BufSel) (start len : Byte) (s : State) : Host.Outcome State Fault Refusal :=
  complete s
    (if windowLegal w buf start len then .ok { s with br := openStream w buf start len }
    else .error (illegalOperand (.brinit w buf start len)))

/-- One turn of the loop of R149: the next unit of the window goes above the valid bits of ACC. -/
def loadUnit (s : State) (b : BitStream) : BitStream :=
  { b with
    acc := b.acc ||| ((bufRead s b.buf b.idx.toNat &&& maskBits 8 b.w.toNat).setWidth 64 <<< b.n.toNat)
    n := BitVec.ofNat 6 (b.n.toNat + b.w.toNat)
    idx := b.idx + 1#8 }

/-- The loop of R149: load units while fewer than `nb` bits are held and the window has more. The first argument bounds
the turns; END - IDX turns exhaust the window. -/
def fill (s : State) (nb : Nat) : Nat → BitStream → BitStream
  | 0, b => b
  | k + 1, b =>
    if b.n.toNat < nb ∧ b.idx.toNat < b.stop.toNat then fill s nb k (loadUnit s b) else b

/-- The reader once `nb` bits have been asked for (R149). -/
def filled (s : State) (nb : Nat) : BitStream := fill s nb (s.br.stop.toNat - s.br.idx.toNat) s.br

/-- The last three lines of R149: the low `nb` bits go to RES and leave the accumulator. -/
def takeBits (s : State) (nb : Nat) (b : BitStream) : State :=
  { s with
    res := (b.acc &&& maskBits 64 nb).setWidth 32
    br := { b with acc := b.acc >>> nb, n := BitVec.ofNat 6 (b.n.toNat - nb) } }

/-- BRREAD (R149). -/
def execBrread (nb : Byte) (s : State) : Host.Outcome State Fault Refusal :=
  complete s
    (if !bitCountLegal nb then .error (illegalOperand (.brread nb))
    else if !s.br.act then .error { code := .notInit, info := encode (.brread nb) }
    else .ok (takeBits s nb.toNat (filled s nb.toNat)))

/-- BRMORE (R151). -/
def execBrmore (s : State) : Host.Outcome State Fault Refusal :=
  complete s
    (if !s.br.act then .error { code := .notInit, info := encode .brmore }
    else .ok { s with res := if s.br.hasMore then 1#32 else 0#32 })

/-- BWINIT (R153). -/
def execBwinit (w : BitVec 4) (buf : BufSel) (start len : Byte) (s : State) : Host.Outcome State Fault Refusal :=
  complete s
    (if windowLegal w buf start len then .ok { s with bw := openStream w buf start len }
    else .error (illegalOperand (.bwinit w buf start len)))

/-- One turn of the loop of R154: the low W bits of ACC go to element IDX. -/
def storeUnit (s : State) : State :=
  let t := bufWrite s s.bw.buf s.bw.idx.toNat ((s.bw.acc &&& maskBits 64 s.bw.w.toNat).setWidth 8)
  { t with
    bw :=
      { s.bw with
        idx := s.bw.idx + 1#8
        acc := s.bw.acc >>> s.bw.w.toNat
        n := BitVec.ofNat 6 (s.bw.n.toNat - s.bw.w.toNat) } }

/-- The loop of R154 for a given number of turns. While N >= W it takes floor(N / W) turns. -/
def storeUnits : Nat → State → State
  | 0, s => s
  | k + 1, s => storeUnits k (storeUnit s)

/-- The units that a write of `nb` bits completes: floor((BW.N + NB) / BW.W) of R154. No initialised
record that a run reaches has BW.W = 0 (log entry 5). -/
def unitsCompleted (b : BitStream) (nb : Nat) : Nat := (b.n.toNat + nb) / b.w.toNat

/-- OPR goes above the valid bits of the writer's accumulator (R154). -/
def appendOpr (s : State) (nb : Nat) : State :=
  { s with
    bw :=
      { s.bw with
        acc := s.bw.acc ||| (s.opr.setWidth 64 <<< s.bw.n.toNat)
        n := BitVec.ofNat 6 (s.bw.n.toNat + nb) } }

/-- BWWRITE (R154). -/
def execBwwrite (nb : Byte) (s : State) : Host.Outcome State Fault Refusal :=
  complete s
    (if !bitCountLegal nb then .error (illegalOperand (.bwwrite nb))
    else if !s.bw.act then .error { code := .notInit, info := encode (.bwwrite nb) }
    else if s.opr.toNat ≥ 2 ^ nb.toNat then .error { code := .fieldRange, info := encode (.bwwrite nb) }
    else if s.bw.idx.toNat + unitsCompleted s.bw nb.toNat > s.bw.stop.toNat then
      .error { code := .bufOverflow, info := encode (.bwwrite nb) }
    else .ok (storeUnits (unitsCompleted s.bw nb.toNat) (appendOpr s nb.toNat)))

/-- The partial unit of R155 is stored and the accumulator emptied. -/
def flushUnit (s : State) : State :=
  let t := bufWrite s s.bw.buf s.bw.idx.toNat ((s.bw.acc &&& maskBits 64 s.bw.w.toNat).setWidth 8)
  { t with bw := { s.bw with idx := s.bw.idx + 1#8, acc := 0#64, n := 0#6 } }

/-- BWFLUSH (R155). -/
def execBwflush (s : State) : Host.Outcome State Fault Refusal :=
  complete s
    (if !s.bw.act then .error { code := .notInit, info := encode .bwflush }
    else if s.bw.n.toNat > 0 then
      if s.bw.idx.toNat ≥ s.bw.stop.toNat then .error { code := .bufOverflow, info := encode .bwflush }
      else .ok (flushUnit s)
    else .ok s)

end Sys2Proof.Machine
end

