-- ==== Sys2Proof/Machine/Symbol.lean ====
section
/-! DEFINITION. The Symbol Translator (41_symbol_translator.md): PARSE, RENDER, SYMDEC, SYMENC. -/

namespace Sys2Proof.Machine

/-- UPPER (R110). -/
def upper (b : Byte) : Byte := if 0x61 ≤ b.toNat ∧ b.toNat ≤ 0x7A then b - 0x20#8 else b

/-- LOWER (R110). -/
def lower (b : Byte) : Byte := if 0x41 ≤ b.toNat ∧ b.toNat ≤ 0x5A then b + 0x20#8 else b

/-- The whitespace set WS (R111). -/
def isSpace (b : Byte) : Bool :=
  b == 0x09#8 || b == 0x0A#8 || b == 0x0B#8 || b == 0x0C#8 || b == 0x0D#8 || b == 0x20#8

/-- SYM_TABLE[c]. -/
def tokenOf (cfg : Tables) (c : Code) : Token := cfg.symTable[c.toNat]'(by have := c.isLt; omega)

/-- LOOKUP (R112): the code whose table entry is the upper-cased token. -/
def lookup (cfg : Tables) (tok : Token) : Option Code :=
  (cfg.symTable.toList.findIdx? fun t => t == (upper tok.1, upper tok.2)).map (BitVec.ofNat 6)

/-- A token in 16 bits: the first character in bits 7:0 (20_memory.md R72), zero-extended. -/
def tokenWord (tok : Token) : Word := place tok.1 0 ||| place tok.2 8

/-- The characters of TXT[0..TXTLEN-1] that are not whitespace, upper-cased, in order (R113). -/
def strippedText (s : State) : List Byte :=
  ((s.txt.toList.take s.txtlen.toNat).filter fun b => !isSpace b).map upper

/-- The characters taken two by two. -/
def pairTokens : List Byte → List Token
  | a :: b :: rest => (a, b) :: pairTokens rest
  | [_] => []
  | [] => []

/-- The codes of the tokens, or the index of the first that is not in the table; `k` is the index of the first token
of the list (R113). -/
def lookupAll (cfg : Tables) : Nat → List Token → Except Nat (List Code)
  | _, [] => .ok []
  | k, tok :: rest =>
    match lookup cfg tok with
    | none => .error k
    | some c =>
      match lookupAll cfg (k + 1) rest with
      | .ok cs => .ok (c :: cs)
      | .error j => .error j

/-- The body of PARSE for the command word `w` (R113), also the first step of DECODE. -/
def parseBody (w : Word) (s : State) : CmdResult :=
  if s.txtlen.toNat > 256 then .error { code := .illegalOperand, info := w }
  else if (strippedText s).length ≠ 60 then
    .error { code := .invalidLength, info := BitVec.ofNat 32 (strippedText s).length }
  else
    match lookupAll s.cfg 0 (pairTokens (strippedText s)) with
    | .error k => .error { code := .invalidSymbol, info := BitVec.ofNat 32 k }
    | .ok codes => .ok { s with sym := Vector.ofFn fun k => codes.getD k.val 0#6 }

/-- PARSE (R113). -/
def execParse (s : State) : Host.Outcome State Fault Refusal := complete s (parseBody (encode .parse) s)

/-- What stands before token `k`: a line break every 15 tokens, else a space every 5 (R114). -/
def separator (k : Nat) : List Byte :=
  if 0 < k ∧ k % 15 = 0 then [0x0A#8] else if 0 < k ∧ k % 5 = 0 then [0x20#8] else []

/-- A token as RENDER writes it: first character upper-case, second lower-case (R114). -/
def renderToken (tok : Token) : List Byte := [upper tok.1, lower tok.2]

/-- The text RENDER writes (R114): 65 bytes. -/
def renderText (cfg : Tables) (sym : Vector Code 30) : List Byte :=
  (List.range 30).flatMap fun k => separator k ++ renderToken (tokenOf cfg sym[Fin.ofNat 30 k])

/-- The body of RENDER (R114), also the last step of ENCODE. -/
def renderBody (s : State) : State :=
  { s with
    out := Vector.ofFn fun o => (renderText s.cfg s.sym).getD o.val 0#8
    outlen := 65#7 }

/-- RENDER (R114). -/
def execRender (s : State) : Host.Outcome State Fault Refusal := complete s (.ok (renderBody s))

/-- SYMDEC (R116). -/
def execSymdec (t0 t1 : Byte) (s : State) : Host.Outcome State Fault Refusal :=
  complete s
    (match lookup s.cfg (t0, t1) with
    | none => .error { code := .invalidSymbol, info := 0#32 }
    | some c => .ok { s with res := c.setWidth 32 })

/-- SYMENC (R117). -/
def execSymenc (code : Code) (s : State) : Host.Outcome State Fault Refusal :=
  complete s (.ok { s with res := tokenWord (tokenOf s.cfg code) })

end Sys2Proof.Machine
end

