-- ==== Sys2Proof/Machine/Pipeline.lean ====
section
/-! DEFINITION. Pipelines and control (46_pipeline_control.md): NOP, DECODE, ENCODE, CLRERR. -/

namespace Sys2Proof.Machine

/-- NOP (R215). -/
def execNop (s : State) : Host.Outcome State Fault Refusal := complete s (.ok s)

/-- CLRERR (R221). -/
def execClrerr (s : State) : Host.Outcome State Fault Refusal :=
  complete s (.ok { s with status := s.status.clearSticky })

/-- The steps of DECODE after PARSE (R216), none of which can fail. -/
def decodeTail (s : State) : State :=
  let t := ckchkBody (obfdecBody (pack68Body (papplyBody (crcsymBody s))))
  { t with res := t.cksum.setWidth 32 }

/-- The body of DECODE (R216): PARSE, and if it succeeds the other steps. -/
def decodeBody (w : Word) (s : State) : CmdResult :=
  match parseBody w s with
  | .error e => .error e
  | .ok t => .ok (decodeTail t)

/-- DECODE (R216). -/
def execDecode (s : State) : Host.Outcome State Fault Refusal :=
  complete s (decodeBody (encode .decodePw) s)

/-- The body of ENCODE (R218). -/
def encodeBody (g : Bool) (s : State) : State :=
  let t := renderBody (punapplyBody (pack86Body (obfencBody (if g then ckgenBody s else s))))
  { t with res := t.frm[(0 : Fin 23)].setWidth 32 }

/-- ENCODE (R218). -/
def execEncode (g : Bool) (s : State) : Host.Outcome State Fault Refusal := complete s (.ok (encodeBody g s))

end Sys2Proof.Machine
end

