-- ==== Sys2Proof/Machine/Dispatch.lean ====
section
/-! DEFINITION. The meaning of each command, one arm per constructor of `Instr`. -/

namespace Sys2Proof.Machine

/-- One command, run to completion as one step (30_encoding.md R94; 20_memory.md R66). -/
def exec (i : Instr) (s : State) : Host.Outcome State Fault Refusal :=
  match i with
  | .nop => Sys2Proof.Machine.execNop s
  | .parse => Sys2Proof.Machine.execParse s
  | .render => Sys2Proof.Machine.execRender s
  | .symdec t0 t1 => Sys2Proof.Machine.execSymdec t0 t1 s
  | .symenc code => Sys2Proof.Machine.execSymenc code s
  | .papply => Sys2Proof.Machine.execPapply s
  | .punapply => Sys2Proof.Machine.execPunapply s
  | .pack68 => Sys2Proof.Machine.execPack68 s
  | .pack86 => Sys2Proof.Machine.execPack86 s
  | .pseedf => Sys2Proof.Machine.execPseedf s
  | .pseedi seed => Sys2Proof.Machine.execPseedi seed s
  | .pnext => Sys2Proof.Machine.execPnext s
  | .obfdec => Sys2Proof.Machine.execObfdec s
  | .obfenc => Sys2Proof.Machine.execObfenc s
  | .cksum start len => Sys2Proof.Machine.execCksum start len s
  | .ckchk => Sys2Proof.Machine.execCkchk s
  | .ckgen => Sys2Proof.Machine.execCkgen s
  | .crcinit => Sys2Proof.Machine.execCrcinit s
  | .crcbyte b => Sys2Proof.Machine.execCrcbyte b s
  | .crcfin => Sys2Proof.Machine.execCrcfin s
  | .crcsym => Sys2Proof.Machine.execCrcsym s
  | .brinit w buf start len => Sys2Proof.Machine.execBrinit w buf start len s
  | .brread nb => Sys2Proof.Machine.execBrread nb s
  | .brmore => Sys2Proof.Machine.execBrmore s
  | .bwinit w buf start len => Sys2Proof.Machine.execBwinit w buf start len s
  | .bwwrite nb => Sys2Proof.Machine.execBwwrite nb s
  | .bwflush => Sys2Proof.Machine.execBwflush s
  | .decodePw => Sys2Proof.Machine.execDecode s
  | .encodePw g => Sys2Proof.Machine.execEncode g s
  | .clrerr => Sys2Proof.Machine.execClrerr s

end Sys2Proof.Machine
end

