-- ==== Sys2Proof/Machine/Port.lean ====
section
/-! DEFINITION. The host port (20_memory.md): the register map of R62, reads and writes of R63 and R64, the CMD write that
runs a command (R66), the bus errors of R65, and reset (70_reset_and_hazards.md R260). -/

namespace Sys2Proof.Machine

/-- The element of a window of `n` words at `base` that the aligned address `a` names (R62). -/
def windowIndex (base n a : Nat) : Option (Fin n) :=
  if h : base ≤ a ∧ (a - base) / 4 < n then some ⟨(a - base) / 4, h.2⟩ else none

/-- The single registers of R62. -/
def registerAt (a : Nat) : Option Loc :=
  match a with
  | 0x0000 => some .cmd
  | 0x0004 => some .status
  | 0x0008 => some .res
  | 0x000C => some .opr
  | 0x0010 => some .txtlen
  | 0x0014 => some .outlen
  | 0x0018 => some .cksum
  | 0x001C => some .crc
  | 0x0020 => some .revive
  | 0x0024 => some .pcur
  | 0x0028 => some .brstat
  | 0x002C => some .bwstat
  | _ => none

/-- The buffer and table windows of R62, which do not overlap. -/
def elementAt (a : Nat) : Option Loc :=
  match windowIndex 0x1000 256 a with
  | some i => some (.txt i)
  | none =>
  match windowIndex 0x1400 30 a with
  | some i => some (.sym i)
  | none =>
  match windowIndex 0x1480 31 a with
  | some i => some (.prm i)
  | none =>
  match windowIndex 0x1500 23 a with
  | some i => some (.frm i)
  | none =>
  match windowIndex 0x1580 65 a with
  | some i => some (.out i)
  | none =>
  match windowIndex 0x1800 56 a with
  | some i => some (.st i)
  | none =>
  match windowIndex 0x2000 30 a with
  | some i => some (.perm i)
  | none =>
  match windowIndex 0x2100 64 a with
  | some i => some (.symTable i)
  | none =>
  match windowIndex 0x2400 256 a with
  | some i => some (.crcTable i)
  | none => none

/-- What the aligned address `a` names; every other address is unmapped (R62). -/
def locOf (a : BitVec 16) : Option Loc :=
  match registerAt a.toNat with
  | some l => some l
  | none => elementAt a.toNat

/-- The value of a location, zero-extended to 32 bits (R63); CMD reads 0 (R64). -/
def readLoc (s : State) : Loc → Word
  | .cmd => 0#32
  | .status => s.status.word
  | .res => s.res
  | .opr => s.opr
  | .txtlen => s.txtlen.setWidth 32
  | .outlen => s.outlen.setWidth 32
  | .cksum => s.cksum.setWidth 32
  | .crc => s.crc
  | .revive => s.revive.setWidth 32
  | .pcur => s.gen.pcurWord
  | .brstat => brstatWord s.br
  | .bwstat => bwstatWord s.bw
  | .txt i => s.txt[i].setWidth 32
  | .sym i => s.sym[i].setWidth 32
  | .prm i => s.prm[i].setWidth 32
  | .frm i => s.frm[i].setWidth 32
  | .out i => s.out[i].setWidth 32
  | .st i => s.gen.st[i]
  | .perm i => BitVec.ofNat 32 s.cfg.perm[i].val
  | .symTable c => tokenWord s.cfg.symTable[c]
  | .crcTable n => s.cfg.crcTable[n]

/-- A command word written to CMD (R94): a word that decodes runs its command; any other raises ILLEGAL_COMMAND with
RES = the word (R242). -/
def runWord (w : Word) (s : State) : Host.Outcome State Fault Refusal :=
  match decode w with
  | .ok i => exec i s
  | .error _ => complete s (.error { code := .illegalCommand, info := w })

/-- A write of `v` to a location: the low bits that fit the element are kept (R63), a read-only location ignores it
(R64), and CMD runs a command (R66). -/
def writeLoc (v : Word) (s : State) : Loc → Host.Outcome State Fault Refusal
  | .cmd => runWord v s
  | .opr => .next { s with opr := v }
  | .txtlen => .next { s with txtlen := v.setWidth 9 }
  | .txt i => .next { s with txt := s.txt.set i (v.setWidth 8) }
  | .sym i => .next { s with sym := s.sym.set i (v.setWidth 6) }
  | .prm i => .next { s with prm := s.prm.set i (v.setWidth 6) }
  | .frm i => .next { s with frm := s.frm.set i (v.setWidth 8) }
  | .status | .res | .outlen | .cksum | .crc | .revive | .pcur | .brstat | .bwstat | .out _ | .st _ | .perm _
  | .symTable _ | .crcTable _ => .next s

/-- The location of a legal access, or the bus error it is (R61, R65). Which of several bus errors is named is the model's
(log entry 9). -/
def access (addr : BitVec 16) (width : Nat) : Except Refusal Loc :=
  if width ≠ 4 then .error .busWidth
  else if addr.toNat % 4 ≠ 0 then .error .busMisaligned
  else
    match locOf addr with
    | none => .error .busUnmapped
    | some l => .ok l

/-- Reset (R260): every piece of state at its reset value, the constant tables unchanged. The host's coming accesses
are the host's own and stay. -/
def resetState (s : State) : State := { State.reset with cfg := s.cfg, host := s.host }

/-- One thing the host does, in the state from which it has been taken. -/
def serve (e : HostEvent) (s : State) : Host.Outcome State Fault Refusal :=
  match e with
  | .read addr width =>
    match access addr width with
    | .error r => .refused r
    | .ok l => .next { s with rdata := some (readLoc s l) }
  | .write addr width v =>
    match access addr width with
    | .error r => .refused r
    | .ok l => writeLoc v { s with rdata := none } l
  | .reset => .next (resetState s)

/-- The host's next access (R76: in the order in which the host issues them). With none to make, the core waits (R261;
log entry 3). -/
def serveNext (s : State) : Host.Outcome State Fault Refusal :=
  match s.host with
  | [] => .next s
  | e :: rest => serve e { s with host := rest }

/-- The write of the command word of a host table row to CMD, in front of the host's other accesses. -/
def placeCommand (s : State) (nbits w : Nat) : State :=
  { s with host := .write 0x0000#16 4 (tableWord nbits w) :: s.host }

end Sys2Proof.Machine
end

