-- ==== Sys2Proof/Machine/Step.lean ====
section
/-! DEFINITION. One step of the machine: one host access, a CMD write with its whole command (00_scope.md R18; 20_memory.md
R66, R76). -/

namespace Sys2Proof.Machine

/-- One step: the host's next access is served. -/
def step (s : State) : Host.Outcome State Fault Refusal := serveNext s

/-- `s` with the command word of a host table row as the next thing the core runs. The core fetches nothing: a command
comes from outside, as a write to CMD (log entry 8). -/
def State.withFetchWord (s : State) (nbits w : Nat) : State := placeCommand s nbits w

end Sys2Proof.Machine
end

