-- ==== Sys2Proof/Machine/FrameLayout.lean ====
section
/-! DEFINITION. The frame layout that tells which frame bits hold which record field (20_memory.md R68 to R71). No command
reads it: the host does, through the bit reader and writer (46_pipeline_control.md R224). -/

namespace Sys2Proof.Machine

/-- A field of the frame. The Mission tail is `dungeon` to `unk2`, the Revive tail `reviveValue` (R70). -/
inductive FrameField where
  | checksum
  | timestamp
  | kind
  | unk1
  | team (j : Fin 12)
  | dungeon
  | floor
  | pokemon
  | gender
  | reward
  | unk2
  | reviveValue
  | padding
deriving DecidableEq, Repr

/-- The first frame bit of a field (R69, R70). -/
def FrameField.first : FrameField → Nat
  | .checksum => 0
  | .timestamp => 8
  | .kind => 40
  | .unk1 => 41
  | .team j => 42 + 9 * j.val
  | .dungeon => 150
  | .floor => 157
  | .pokemon => 164
  | .gender => 175
  | .reward => 177
  | .unk2 => 179
  | .reviveValue => 150
  | .padding => 180

/-- The width of a field in bits (R69, R70). -/
def FrameField.width : FrameField → Nat
  | .checksum => 8
  | .timestamp => 32
  | .kind => 1
  | .unk1 => 1
  | .team _ => 9
  | .dungeon => 7
  | .floor => 7
  | .pokemon => 11
  | .gender => 2
  | .reward => 2
  | .unk2 => 1
  | .reviveValue => 30
  | .padding => 4

/-- Frame bit `k`: bit `k mod 8` of FRM[k div 8] (R68). -/
def frameBit (frm : Vector Byte 23) (k : Nat) : Bool := (frm[k / 8]?.getD 0#8).getLsbD (k % 8)

/-- The value of a field of the frame, its bit 0 at its first position (R67, R69). -/
def frameField (frm : Vector Byte 23) (f : FrameField) : Nat :=
  (stream 8 (frm.toList.map BitVec.toNat) >>> f.first) % 2 ^ f.width

/-- The fields after the checksum, in the fixed order of R71; the tail by kind (R70): `revive` for kind Revive. -/
def recordFields (revive : Bool) : List FrameField :=
  [.timestamp, .kind, .unk1] ++ (List.range 12).map (fun j => FrameField.team (Fin.ofNat 12 j)) ++
    (if revive then [.reviveValue] else [.dungeon, .floor, .pokemon, .gender, .reward, .unk2])

end Sys2Proof.Machine
end

