-- ==== Sys2Proof/Machine/HostProgram.lean ====
section
/-! DEFINITION. Host programs: the lines of 30_encoding.md R101, their pseudo-instructions (R103), the host accesses they
stand for, and the host's record procedures (46_pipeline_control.md R224). -/

namespace Sys2Proof.Machine

/-- The byte address of a location (20_memory.md R62). -/
def Loc.addrNat : Loc → Nat
  | .cmd => 0x0000
  | .status => 0x0004
  | .res => 0x0008
  | .opr => 0x000C
  | .txtlen => 0x0010
  | .outlen => 0x0014
  | .cksum => 0x0018
  | .crc => 0x001C
  | .revive => 0x0020
  | .pcur => 0x0024
  | .brstat => 0x0028
  | .bwstat => 0x002C
  | .txt i => 0x1000 + 4 * i.val
  | .sym i => 0x1400 + 4 * i.val
  | .prm i => 0x1480 + 4 * i.val
  | .frm i => 0x1500 + 4 * i.val
  | .out i => 0x1580 + 4 * i.val
  | .st i => 0x1800 + 4 * i.val
  | .perm i => 0x2000 + 4 * i.val
  | .symTable c => 0x2100 + 4 * c.val
  | .crcTable n => 0x2400 + 4 * n.val

/-- The 16-bit byte address of a location. -/
def Loc.addr (l : Loc) : BitVec 16 := BitVec.ofNat 16 l.addrNat

/-- A line of a host program (R101), the pseudo-instructions of R103 among them. -/
inductive Line where
  | wr (l : Loc) (v : Word)
  | rd (l : Loc)
  | cmd (i : Instr)
  | ckframe
  | brframe
  | bwframe
  | encode
  | encodek
  | wrbits (v : Word) (n : Byte)
  | wrtxt (s : List Byte)
deriving DecidableEq, Repr

/-- A command is a write of its word to CMD (R101). -/
def commandEvent (i : Instr) : HostEvent := .write Loc.cmd.addr 4 (Sys2Proof.encode i)

/-- The write of a location (R101). -/
def writeEvent (l : Loc) (v : Word) : HostEvent := .write l.addr 4 v

/-- The host accesses a line stands for (R101, R103). DESIGN CHOICE, log entry 12: the spec does not say what WRTXT of more
than 256 bytes is, since TXT has no element 256 (20_memory.md R62); the model writes byte `i` at 0x1000 + 4i all the same,
whatever stands there. -/
def Line.events : Line → List HostEvent
  | .wr l v => [writeEvent l v]
  | .rd l => [.read l.addr 4]
  | .cmd i => [commandEvent i]
  | .ckframe => [commandEvent (.cksum 1#8 22#8)]
  | .brframe => [commandEvent (.brinit 8#4 .frm 1#8 22#8)]
  | .bwframe => [commandEvent (.bwinit 8#4 .frm 1#8 22#8)]
  | .encode => [commandEvent (.encodePw true)]
  | .encodek => [commandEvent (.encodePw false)]
  | .wrbits v n => [writeEvent .opr v, commandEvent (.bwwrite n)]
  | .wrtxt s =>
    s.mapIdx (fun i b => HostEvent.write (BitVec.ofNat 16 (0x1000 + 4 * i)) 4 (b.setWidth 32)) ++
      [writeEvent .txtlen (BitVec.ofNat 32 s.length)]

/-- The host accesses of a program, in order. -/
def programEvents (p : List Line) : List HostEvent := p.flatMap Line.events

/-- Reading a record after DECODE (R224): the reader on FRM[1..22], then each field's width. DESIGN CHOICE, log entry 14: the
rule names no access by which the host takes a field, so the lines are the commands alone, with no read of RES; and the tail
follows `revive`, whatever kind is read. -/
def readRecord (revive : Bool) : List Line :=
  .brframe :: (recordFields revive).map fun f => .cmd (.brread (BitVec.ofNat 8 f.width))

/-- Writing a record before ENCODE (R224); `value` gives each field's value, in the order of `recordFields`. A field for which it
has none is not written, a value past the last field is not used, and the tail follows `revive`, whatever the kind's value is
(DESIGN CHOICE, log entry 13). The rule does not say what the host does after a WRBITS that fails with FieldRange; the lines go
on with the next field, which then lands where the failed one would have (DESIGN CHOICE, log entry 15). -/
def writeRecord (revive : Bool) (value : List Word) : List Line :=
  .bwframe :: ((recordFields revive).zip value).map (fun fv => .wrbits fv.2 (BitVec.ofNat 8 fv.1.width)) ++
    [.cmd .bwflush]

end Sys2Proof.Machine
end

