-- ==== Sys2Proof/Safety.lean ====
section
/-! DEFINITION. What counts as a legal state and a safe run: the value invariants of 10_state.md R49, legal host accesses
(20_memory.md R61, R65), and the terms in which claims about commands are stated. -/

namespace Sys2Proof.Machine

/-- STATUS in a state that a run reaches: an error leaves STICKY, STICKY goes with a first error (R28, R238), and CKOK
is set only by a comparison (R26). -/
structure Status.Inv (st : Status) : Prop where
  errSticky : st.err ≠ .ok → st.sticky = true
  stickyFirst : st.sticky = true ↔ st.firsterr ≠ .ok
  okDone : st.ckok = true → st.ckdone = true

/-- The generator in a state that a run reaches (R27, R49): at its reset value before the first seeding; after it,
elements in 0..0x7FFFFFFE and cursors either at their start or both at least 1 and 31 apart on the ring 1..55. -/
structure Gen.Inv (g : Gen) (seeded : Bool) : Prop where
  unseeded : seeded = false → g = Gen.reset
  bounded : seeded = true → ∀ i : Fin 56, g.st[i].toNat < 0x7FFFFFFF
  cursors : seeded = true →
    (g.c1 = 0 ∧ g.c2 = 31) ∨ (1 ≤ g.c1.val ∧ 1 ≤ g.c2.val ∧ g.c2.val % 55 = (g.c1.val + 31) % 55)

/-- A bit stream record in a state that a run reaches (R45, R49): at its reset value before it is initialised; after
it, a legal width, a window inside its buffer, fewer valid bits than one unit, and no bit above them. -/
structure BitStream.Inv (b : BitStream) : Prop where
  closed : b.act = false → b = BitStream.reset
  width : b.act = true → 1 ≤ b.w.toNat ∧ b.w.toNat ≤ 8 ∧ (b.buf = .prm → b.w.toNat ≤ 6)
  window : b.act = true → b.idx.toNat ≤ b.stop.toNat ∧ b.stop.toNat ≤ b.buf.length
  bits : b.act = true → b.n.toNat < b.w.toNat
  accBound : b.acc.toNat < 2 ^ b.n.toNat

/-- The invariant of the machine (R49 and the facts above). The tables' constraints are `Tables.Valid`, which no step
changes. -/
structure State.Inv (s : State) : Prop where
  status : s.status.Inv
  gen : s.gen.Inv s.status.seeded
  br : s.br.Inv
  bw : s.bw.Inv
  outlen : s.outlen = 0#7 ∨ s.outlen = 65#7

/-- An address of the host register map (R62). -/
def mappedAddr (a : BitVec 16) : Prop := ∃ l : Loc, l.addrNat = a.toNat

/-- A host event that is no bus error (R61, R65): 4 bytes wide, aligned and mapped. Reset is always legal. -/
def HostEvent.Legal : HostEvent → Prop
  | .read a width => width = 4 ∧ a.toNat % 4 = 0 ∧ mappedAddr a
  | .write a width _ => width = 4 ∧ a.toNat % 4 = 0 ∧ mappedAddr a
  | .reset => True

/-- A safe run: no step of it faults or is refused (R65: "a claim about a program assumes no refused access occurs"). -/
def State.Safe (s : State) : Prop := ∀ n, ∃ t, Sys2Proof.core.run n s = .next t

/-- Commands run one after the other, with no host access between them but their CMD writes. -/
def execAll : List Instr → State → Host.Outcome State Fault Refusal
  | [], s => .next s
  | i :: rest, s =>
    match exec i s with
    | .next t => execAll rest t
    | .fault f => .fault f
    | .refused r => .refused r

/-- A command ended with an error: R238 written out. -/
def failed (code : ErrCode) (info : Word) (s : State) : State :=
  { s with
    status :=
      { err := code
        ckdone := s.status.ckdone
        ckok := s.status.ckok
        seeded := s.status.seeded
        sticky := true
        firsterr := if s.status.sticky = false then code else s.status.firsterr }
    res := info }

/-- STATUS after a successful command that lists no other flag: ERR = 0 (R237). -/
def State.okStatus (s : State) : Status := { s.status with err := .ok }

/-- The password text as PARSE reads it: TXT[0..TXTLEN-1] without the whitespace of R111, letters upper-cased (R113). -/
def passwordChars (s : State) : List Byte :=
  ((s.txt.toList.take s.txtlen.toNat).filter fun b =>
    b.toNat ∉ [0x09, 0x0A, 0x0B, 0x0C, 0x0D, 0x20]).map upper

/-- Token `k` of the password text (R113). -/
def passwordToken (s : State) (k : Nat) : Token :=
  ((passwordChars s).getD (2 * k) 0#8, (passwordChars s).getD (2 * k + 1) 0#8)

/-- The text in TXT is a password of the symbols `codes` (R113): a legal TXTLEN, 60 characters, and every token is the
table entry of its code. -/
structure State.Spells (s : State) (codes : Vector Code 30) : Prop where
  length : s.txtlen.toNat ≤ 256
  chars : (passwordChars s).length = 60
  tokens : ∀ k : Fin 30, s.cfg.symTable[codes[k].toNat]? = some (passwordToken s k.val)

/-- The elements of a buffer as numbers (R147). -/
def bufferUnits (s : State) : BufSel → List Nat
  | .prm => s.prm.toList.map BitVec.toNat
  | .frm => s.frm.toList.map BitVec.toNat

/-- The units of the window `[start, start+len)` of a buffer, read `w` bits wide (R147). -/
def windowUnits (s : State) (buf : BufSel) (start len w : Nat) : List Nat :=
  (((bufferUnits s buf).drop start).take len).map fun u => u % 2 ^ w

/-- The bits that a reader has still to give: those held in ACC, then those of the units not yet loaded (R149). -/
def pendingBits (s : State) (b : BitStream) : Nat :=
  b.acc.toNat + (stream b.w.toNat
    (windowUnits s b.buf b.idx.toNat (b.stop.toNat - b.idx.toNat) b.w.toNat)) <<< b.n.toNat

end Sys2Proof.Machine
end

