-- ==== Sys2Proof/Certificates/Slice0/Obligations.lean ====
section
/-! DEFINITION. The statements for the provers. Each docstring names the rule of spec/ it formalises. -/

namespace Sys2Proof.Machine

/-- The rows of 30_encoding.md R97: the command, MATCH and MASK. -/
def opcodeMap : List (Opcode × Word × Word) :=
  [(.nop, 0x00000000#32, 0xFFFFFFFF#32),
   (.parse, 0x00000001#32, 0xFFFFFFFF#32),
   (.render, 0x00000002#32, 0xFFFFFFFF#32),
   (.symdec, 0x00000003#32, 0x0000FFFF#32),
   (.symenc, 0x00000004#32, 0xFFC0FFFF#32),
   (.papply, 0x00000010#32, 0xFFFFFFFF#32),
   (.punapply, 0x00000011#32, 0xFFFFFFFF#32),
   (.pack68, 0x00000020#32, 0xFFFFFFFF#32),
   (.pack86, 0x00000021#32, 0xFFFFFFFF#32),
   (.pseedf, 0x00000030#32, 0xFFFFFFFF#32)] ++
  [(.pseedi, 0x00000031#32, 0x0000FFFF#32),
   (.pnext, 0x00000032#32, 0xFFFFFFFF#32),
   (.obfdec, 0x00000033#32, 0xFFFFFFFF#32),
   (.obfenc, 0x00000034#32, 0xFFFFFFFF#32),
   (.cksum, 0x00000040#32, 0xFF0000FF#32),
   (.ckchk, 0x00000041#32, 0xFFFFFFFF#32),
   (.ckgen, 0x00000042#32, 0xFFFFFFFF#32),
   (.crcinit, 0x00000050#32, 0xFFFFFFFF#32),
   (.crcbyte, 0x00000051#32, 0xFF00FFFF#32),
   (.crcfin, 0x00000052#32, 0xFFFFFFFF#32)] ++
  [(.crcsym, 0x00000053#32, 0xFFFFFFFF#32),
   (.brinit, 0x00000060#32, 0x0000E0FF#32),
   (.brread, 0x00000061#32, 0xFFFF00FF#32),
   (.brmore, 0x00000062#32, 0xFFFFFFFF#32),
   (.bwinit, 0x00000064#32, 0x0000E0FF#32),
   (.bwwrite, 0x00000065#32, 0xFFFF00FF#32),
   (.bwflush, 0x00000066#32, 0xFFFFFFFF#32),
   (.decodePw, 0x00000070#32, 0xFFFFFFFF#32),
   (.encodePw, 0x00000071#32, 0xFFFFFEFF#32),
   (.clrerr, 0x0000007F#32, 0xFFFFFFFF#32)]

/-- The code column of 60_exceptions.md R236. -/
def errNumber : ErrCode → Nat
  | .ok => 0
  | .invalidLength => 1
  | .invalidSymbol => 2
  | .illegalCommand => 3
  | .illegalOperand => 4
  | .fieldRange => 5
  | .notSeeded => 6
  | .notInit => 7
  | .bufOverflow => 8

/-- The fields that BRSTAT and BWSTAT share, at their bit positions (10_state.md R37, R38). -/
def streamContent (b : BitStream) : Nat :=
  b.idx.toNat + 2 ^ 8 * b.stop.toNat + 2 ^ 16 * b.n.toNat + 2 ^ 24 * b.w.toNat +
    2 ^ 28 * (if b.buf = .frm then 1 else 0) + 2 ^ 31 * b.act.toNat

/-- The number that the host reads at a location (20_memory.md R62; 10_state.md R24, R36, R37, R38). -/
def locContent (s : State) : Loc → Nat
  | .cmd => 0
  | .status =>
    errNumber s.status.err + 2 ^ 4 * s.status.ckdone.toNat + 2 ^ 5 * s.status.ckok.toNat +
      2 ^ 6 * s.status.seeded.toNat + 2 ^ 7 * s.status.sticky.toNat + 2 ^ 8 * errNumber s.status.firsterr
  | .res => s.res.toNat
  | .opr => s.opr.toNat
  | .txtlen => s.txtlen.toNat
  | .outlen => s.outlen.toNat
  | .cksum => s.cksum.toNat
  | .crc => s.crc.toNat
  | .revive => s.revive.toNat
  | .pcur => s.gen.c1.val + 2 ^ 8 * s.gen.c2.val
  | .brstat =>
    streamContent s.br +
      2 ^ 30 * (if s.br.act = true ∧ (s.br.idx.toNat < s.br.stop.toNat ∨ 0 < s.br.n.toNat) then 1 else 0)
  | .bwstat => streamContent s.bw
  | .txt i => s.txt[i].toNat
  | .sym i => s.sym[i].toNat
  | .prm i => s.prm[i].toNat
  | .frm i => s.frm[i].toNat
  | .out i => s.out[i].toNat
  | .st i => s.gen.st[i].toNat
  | .perm i => s.cfg.perm[i].val
  | .symTable c => s.cfg.symTable[c].1.toNat + 2 ^ 8 * s.cfg.symTable[c].2.toNat
  | .crcTable n => s.cfg.crcTable[n].toNat

/-- The locations that a host write leaves as they are (20_memory.md R64). -/
def Loc.readOnly : Loc → Bool
  | .status | .res | .outlen | .cksum | .crc | .revive | .pcur | .brstat | .bwstat | .out _ | .st _ | .perm _
  | .symTable _ | .crcTable _ => true
  | .cmd | .opr | .txtlen | .txt _ | .sym _ | .prm _ | .frm _ => false

/-- FIX of 44_obfuscator.md R171 on integers. -/
def refFix (t : Int) : Int := if t < 0 then t + 0x7FFFFFFF else t

/-- The seeding loop of R172 on integers, over the indices `xs`; gives the array. -/
def refSeedLoop : List Nat → List Int → Int → Int → List Int
  | [], st, _, _ => st
  | x :: xs, st, seedp, value =>
    refSeedLoop xs (st.set (x * 21 % 55) value) value (refFix (seedp - value))

/-- Warm-up steps of R172 on integers, over the indices `xs`. -/
def refWarm : List Nat → List Int → List Int
  | [], st => st
  | x :: xs, st => refWarm xs (st.set x (refFix (st.getD x 0 - st.getD ((x + 30) % 55 + 1) 0)))

/-- ST after SEED(S), on unbounded integers (R172). -/
def refSeed (seed : Nat) : List Int :=
  let seedp : Int := 0x09A4EC86 - seed
  let st := refSeedLoop (List.range' 1 55) ((List.replicate 56 0).set 55 seedp) seedp 1
  refWarm (List.range 56) (refWarm (List.range 56) (refWarm (List.range 56) (refWarm (List.range 56) st)))

/-- The unfolded sum of 45_checksum_crc.md R190 over `n` bytes given by index: the first byte, the little-endian pairs
(1,2), (3,4), … and a trailing byte. -/
def refSum (code : Nat → Nat) (n : Nat) : Nat :=
  code 0 + ((List.range ((n - 1) / 2)).map fun j => code (2 * j + 1) + 256 * code (2 * j + 2)).sum +
    (if n % 2 = 0 then code (n - 1) else 0)

/-- CHK of R190 on numbers. -/
def refChk (code : Nat → Nat) (n : Nat) : Nat :=
  let s := refSum code n
  let s := s % 65536 + s / 65536
  let s := s % 65536 + s / 65536
  let s := s % 256 + s / 256
  let s := s % 256 + s / 256
  255 - s

/-- Byte `i` of the frame as a number. -/
def frameByte (s : State) (i : Nat) : Nat := (s.frm[i]?.getD 0#8).toNat

/-- The rows of 60_exceptions.md R236: command `i` in state `s` raises error `code` with `info` in RES. -/
def raisedBy (i : Instr) (s : State) (code : ErrCode) (info : Word) : Prop :=
  match code with
  | .ok => False
  | .invalidLength =>
    (i = .parse ∨ i = .decodePw) ∧ (passwordChars s).length ≠ 60 ∧ info.toNat = (passwordChars s).length
  | .invalidSymbol =>
    ((i = .parse ∨ i = .decodePw) ∧ info.toNat < 30 ∧
      ∀ c : Fin 64, s.cfg.symTable[c] ≠
        (upper (passwordToken s info.toNat).1, upper (passwordToken s info.toNat).2)) ∨
    ∃ t0 t1, i = .symdec t0 t1 ∧ info = 0#32 ∧ ∀ c : Fin 64, s.cfg.symTable[c] ≠ (upper t0, upper t1)
  | .illegalCommand => False
  | .illegalOperand =>
    info = encode i ∧ (i.wellFormed = false ∨ (i = .parse ∨ i = .decodePw) ∧ 256 < s.txtlen.toNat)
  | .fieldRange => ∃ nb, i = .bwwrite nb ∧ 2 ^ nb.toNat ≤ s.opr.toNat ∧ info = encode i
  | .notSeeded => i = .pnext ∧ s.status.seeded = false ∧ info = encode i
  | .notInit =>
    info = encode i ∧
      ((i = .brmore ∨ ∃ nb, i = .brread nb) ∧ s.br.act = false ∨
        (i = .bwflush ∨ ∃ nb, i = .bwwrite nb) ∧ s.bw.act = false)
  | .bufOverflow =>
    info = encode i ∧
      ((∃ nb, i = .bwwrite nb ∧ s.bw.stop.toNat < s.bw.idx.toNat + (s.bw.n.toNat + nb.toNat) / s.bw.w.toNat) ∨
        i = .bwflush ∧ 0 < s.bw.n.toNat ∧ s.bw.stop.toNat ≤ s.bw.idx.toNat)

/-- The host accesses that write values one after the other through the bit writer: OPR, then BWWRITE
(30_encoding.md R103, WRBITS). -/
def writeFields : List (Word × Byte) → State → Host.Outcome State Fault Refusal
  | [], s => .next s
  | (v, nb) :: rest, s =>
    match exec (.bwwrite nb) { s with opr := v } with
    | .next t => if t.status.err = .ok then writeFields rest t else .next t
    | .fault f => .fault f
    | .refused r => .refused r

/-- The fields `(value, width)` as one stream, the first in the lowest bits (20_memory.md R67). -/
def fieldStream : List (Word × Byte) → Nat
  | [] => 0
  | (v, nb) :: rest => v.toNat + fieldStream rest <<< nb.toNat

/-- The bits of a list of fields. -/
def fieldBits (fields : List (Word × Byte)) : Nat := (fields.map fun f => f.2.toNat).sum

end Sys2Proof.Machine

open Sys2Proof Sys2Proof.Machine

/-! ### Encoding -/

/-- R94, R95, R97, R102 of 30_encoding.md: the decoder reads back every command that the encoder writes, every operand
at every value its field admits. -/
def Obligations.DecodeReadsBackEncode : Prop := ∀ i : Instr, decode (encode i) = .ok i

/-- R94, R95, R97: a word that decodes is the word of its command, so the word that R236 asks for in RES is
`encode` of the command. -/
def Obligations.EncodeReadsBackDecode : Prop := ∀ (w : Word) (i : Instr), decode w = .ok i → encode i = w

/-- R97: the rows of the opcode map, by MATCH and MASK. -/
def Obligations.WordIsCommandWhenMaskMatches : Prop :=
  ∀ row ∈ opcodeMap, ∀ w : Word,
    w &&& row.2.2 = row.2.1 ↔ ∃ i, decode w = .ok i ∧ i.opcode = row.1

/-- R102: the example encodings, written out, are the words of their commands and decode to them. -/
def Obligations.ExampleWordsDecode : Prop :=
  ∀ p ∈ ([(.cksum 1#8 22#8, 0x00160140#32), (.brinit 8#4 .frm 1#8 22#8, 0x16011860#32), (.bwwrite 9#8, 0x00000965#32),
      (.symdec 0x41#8 0x56#8, 0x56410003#32), (.symenc 63#6, 0x003F0004#32), (.pseedi 0x1234#16, 0x12340031#32),
      (.crcbyte 0x31#8, 0x00310051#32), (.encodePw true, 0x00000171#32), (.bwinit 6#4 .prm 0#8 2#8, 0x02000664#32),
      (.clrerr, 0x0000007F#32), (.papply, 0x00000010#32), (.pack86, 0x00000021#32)] : List (Instr × Word)),
    encode p.1 = p.2 ∧ decode p.2 = .ok p.1

/-- R94, R66, R76: a step whose next host access writes a word that decodes to a command runs that command, on the
state from which the access has been taken. Nothing else is added: the core has no program counter (R21). The fields
`host` and `rdata` are the model's own (log entries 1 and 2). -/
def Obligations.StepRunsDecodedCommand : Prop :=
  ∀ (s : State) (rest : List HostEvent) (w : Word) (i : Instr), decode w = .ok i →
    step { s with host := .write 0x0000#16 4 w :: rest } = exec i { s with host := rest, rdata := none }

/-- R94, R98, R99, R238, R242: a word that no row of R97 matches ends with ILLEGAL_COMMAND and RES = the word, and
changes nothing else. -/
def Obligations.OtherWordsRaiseIllegalCommand : Prop :=
  ∀ (s : State) (rest : List HostEvent) (w : Word), (∀ row ∈ opcodeMap, w &&& row.2.2 ≠ row.2.1) →
    step { s with host := .write 0x0000#16 4 w :: rest } =
      .next (failed .illegalCommand w { s with host := rest, rdata := none })

/-- The model's choice (log entry 3), after R261: with no host access to serve, a step leaves the machine as it is. -/
def Obligations.IdleStepWaits : Prop := ∀ s : State, s.host = [] → step s = .next s

/-! ### The host port -/

/-- R62, R63, R64, R66: a host read returns the value of the location at its address, zero-extended, and changes nothing
but what the access returned (the model's field `rdata`). CMD reads 0. -/
def Obligations.HostReadReturnsContent : Prop :=
  ∀ (s : State) (rest : List HostEvent) (l : Loc),
    step { s with host := .read (BitVec.ofNat 16 l.addrNat) 4 :: rest } =
      .next { s with host := rest, rdata := some (BitVec.ofNat 32 (locContent s l)) }

/-- R63: a host write stores the low bits that fit the element and ignores the higher bits; nothing else changes. -/
def Obligations.HostWriteKeepsLowBits : Prop :=
  ∀ (s : State) (rest : List HostEvent) (v : Word),
    (step { s with host := .write 0x000C#16 4 v :: rest } = .next { s with host := rest, rdata := none, opr := v }) ∧
    (step { s with host := .write 0x0010#16 4 v :: rest } =
      .next { s with host := rest, rdata := none, txtlen := BitVec.ofNat 9 v.toNat }) ∧
    (∀ i : Fin 256, step { s with host := .write (BitVec.ofNat 16 (0x1000 + 4 * i.val)) 4 v :: rest } =
      .next { s with host := rest, rdata := none, txt := s.txt.set i (BitVec.ofNat 8 v.toNat) }) ∧
    (∀ i : Fin 30, step { s with host := .write (BitVec.ofNat 16 (0x1400 + 4 * i.val)) 4 v :: rest } =
      .next { s with host := rest, rdata := none, sym := s.sym.set i (BitVec.ofNat 6 v.toNat) }) ∧
    (∀ i : Fin 31, step { s with host := .write (BitVec.ofNat 16 (0x1480 + 4 * i.val)) 4 v :: rest } =
      .next { s with host := rest, rdata := none, prm := s.prm.set i (BitVec.ofNat 6 v.toNat) }) ∧
    (∀ i : Fin 23, step { s with host := .write (BitVec.ofNat 16 (0x1500 + 4 * i.val)) 4 v :: rest } =
      .next { s with host := rest, rdata := none, frm := s.frm.set i (BitVec.ofNat 8 v.toNat) })

/-- R64: a host write to a read-only address changes nothing and is no error; a host read of CMD returns 0. -/
def Obligations.HostWriteToReadOnlyIgnored : Prop :=
  ∀ (s : State) (rest : List HostEvent),
    (∀ (l : Loc) (v : Word), l.readOnly = true →
      step { s with host := .write (BitVec.ofNat 16 l.addrNat) 4 v :: rest } =
        .next { s with host := rest, rdata := none }) ∧
    step { s with host := .read 0x0000#16 4 :: rest } = .next { s with host := rest, rdata := some 0#32 }

/-- R61, R65: a step is refused exactly when the host access is misaligned, unmapped or not 4 bytes wide; no command
and no other access is. -/
def Obligations.StepRefusesOnlyBusErrors : Prop :=
  ∀ s : State, (∃ r, step s = .refused r) ↔ ∃ e rest, s.host = e :: rest ∧ ¬ e.Legal

/-- R65, R94: a run in which every host access is legal never stops. -/
def Obligations.LegalAccessesRunSafely : Prop := ∀ s : State, (∀ e ∈ s.host, e.Legal) → s.Safe

/-! ### Reset -/

/-- R48: every piece of state is 0 after reset, CMD reads 0, and reset leaves the constant tables as they are. -/
def Obligations.ResetValuesAreZero : Prop :=
  State.reset.status = { err := .ok, ckdone := false, ckok := false, seeded := false, sticky := false, firsterr := .ok } ∧
  State.reset.res = 0#32 ∧ State.reset.opr = 0#32 ∧ State.reset.crc = 0#32 ∧
  State.reset.txtlen = 0#9 ∧ State.reset.outlen = 0#7 ∧ State.reset.cksum = 0#8 ∧ State.reset.revive = 0#30 ∧
  State.reset.gen.c1 = 0 ∧ State.reset.gen.c2 = 0 ∧ (∀ i : Fin 56, State.reset.gen.st[i] = 0#32) ∧
  (∀ b ∈ [State.reset.br, State.reset.bw],
    b = { act := false, buf := .prm, w := 0#4, idx := 0#8, stop := 0#8, n := 0#6, acc := 0#64 }) ∧
  (∀ i : Fin 256, State.reset.txt[i] = 0#8) ∧ (∀ i : Fin 30, State.reset.sym[i] = 0#6) ∧
  (∀ i : Fin 31, State.reset.prm[i] = 0#6) ∧ (∀ i : Fin 23, State.reset.frm[i] = 0#8) ∧
  (∀ i : Fin 65, State.reset.out[i] = 0#8) ∧ readLoc State.reset .cmd = 0#32 ∧ ∀ s, (resetState s).cfg = s.cfg

/-- R260: reset puts every piece of state at its reset value and keeps the constant tables. The host's coming accesses
are its own (the model's field `host`, log entry 1). -/
def Obligations.ResetEventRestoresReset : Prop :=
  ∀ (s : State) (rest : List HostEvent),
    step { s with host := .reset :: rest } = .next { State.reset with cfg := s.cfg, host := rest }

/-! ### Errors and STATUS -/

/-- R235, R236, R237, R238, R251: every command completes; it succeeds with ERR = 0, or fails on a condition of R236 with the
error effects of R238 and no other change. -/
def Obligations.CommandSucceedsOrOnlyFails : Prop :=
  ∀ (i : Instr) (s : State), ∃ t, exec i s = .next t ∧
    (t.status.err = .ok ∨ ∃ code info, raisedBy i s code info ∧ t = failed code info s)

/-- R236: which command raises which error, on which condition, and what RES then holds. -/
def Obligations.ErrorsComeFromTheirConditions : Prop :=
  ∀ (i : Instr) (s t : State), exec i s = .next t → t.status.err ≠ .ok →
    raisedBy i s t.status.err t.res

/-- R148, R149, R153, R154, R192, R243: a command fails with ILLEGAL_OPERAND and RES = its word when its operands are out
of range, and PARSE and DECODE when TXTLEN > 256; with legal operands and a legal TXTLEN no command does. -/
def Obligations.IllegalOperandExactly : Prop :=
  ∀ (i : Instr) (s : State),
    (i.wellFormed = false ∨ (i = .parse ∨ i = .decodePw) ∧ 256 < s.txtlen.toNat →
      exec i s = .next (failed .illegalOperand (encode i) s)) ∧
    (i.wellFormed = true → s.txtlen.toNat ≤ 256 →
      ∃ t, exec i s = .next t ∧ t.status.err ≠ .illegalOperand)

/-- R28, R238, R252: no command but CLRERR takes STICKY or FIRSTERR back: a success keeps both, and a failure sets STICKY and
records its code in FIRSTERR only if STICKY was 0. -/
def Obligations.FirstErrorIsKept : Prop :=
  ∀ (i : Instr) (s t : State), i ≠ .clrerr → exec i s = .next t →
    (t.status.err = .ok → t.status.sticky = s.status.sticky ∧ t.status.firsterr = s.status.firsterr) ∧
    (t.status.err ≠ .ok →
      t.status.sticky = true ∧
        t.status.firsterr = if s.status.sticky = true then s.status.firsterr else t.status.err)

/-- R24, R26, R27: CKDONE and CKOK are written by CKCHK, CKGEN, DECODE and ENCODE with G = 1 only; SEEDED by PSEEDF, PSEEDI,
OBFDEC, OBFENC, DECODE and ENCODE only, and no command clears it. -/
def Obligations.StatusFlagsHaveTheirWriters : Prop :=
  ∀ (i : Instr) (s t : State), exec i s = .next t →
    (i ∉ [.ckchk, .ckgen, .decodePw, .encodePw true] →
      t.status.ckdone = s.status.ckdone ∧ t.status.ckok = s.status.ckok) ∧
    (t.status.seeded = s.status.seeded ∨
      t.status.seeded = true ∧
        (i ∈ [.pseedf, .obfdec, .obfenc, .decodePw] ∨ (∃ seed, i = .pseedi seed) ∨ ∃ g, i = .encodePw g))

/-- R30, R31, R39, R46: no command writes OPR, TXTLEN, TXT or the constant tables. The model's own fields `host` and
`rdata` are no command's either. -/
def Obligations.CommandsKeepHostInputs : Prop :=
  ∀ (i : Instr) (s t : State), exec i s = .next t →
    t.opr = s.opr ∧ t.txtlen = s.txtlen ∧ t.txt = s.txt ∧ t.cfg = s.cfg ∧ t.host = s.host ∧ t.rdata = s.rdata

/-- R32 to R36, R40 to R45: each register and buffer is changed only by the commands its rule names as its writers
(BRREAD and BWWRITE also move their own record: R149, R154). -/
def Obligations.RegistersHaveTheirWriters : Prop :=
  ∀ (i : Instr) (s t : State), exec i s = .next t →
    (i ∉ [.parse, .punapply, .decodePw, .encodePw true, .encodePw false] → t.sym = s.sym) ∧
    (i ∉ [.papply, .pack86, .bwflush, .decodePw, .encodePw true, .encodePw false] → (∀ nb, i ≠ .bwwrite nb) →
      t.prm = s.prm) ∧
    (i ∉ [.pack68, .obfdec, .obfenc, .ckgen, .bwflush, .decodePw, .encodePw true, .encodePw false] →
      (∀ nb, i ≠ .bwwrite nb) → t.frm = s.frm) ∧
    (i ∉ [.render, .encodePw true, .encodePw false] → t.out = s.out ∧ t.outlen = s.outlen) ∧
    (i ∉ [.pseedf, .pnext, .obfdec, .obfenc, .decodePw, .encodePw true, .encodePw false] →
      (∀ seed, i ≠ .pseedi seed) → t.gen = s.gen) ∧
    ((∀ w buf start len, i ≠ .brinit w buf start len) → (∀ nb, i ≠ .brread nb) → t.br = s.br) ∧
    ((∀ w buf start len, i ≠ .bwinit w buf start len) → (∀ nb, i ≠ .bwwrite nb) → i ≠ .bwflush → t.bw = s.bw) ∧
    (i ∉ [.crcinit, .crcsym, .decodePw] → (∀ b, i ≠ .crcbyte b) → t.crc = s.crc) ∧
    (i ∉ [.crcsym, .decodePw] → t.revive = s.revive) ∧
    (i ∉ [.ckchk, .ckgen, .decodePw, .encodePw true] → (∀ a b, i ≠ .cksum a b) → t.cksum = s.cksum)

/-- R215, R221: NOP does nothing but set ERR to 0; CLRERR also clears STICKY and FIRSTERR. -/
def Obligations.NopAndClrerrEffects : Prop :=
  ∀ s : State,
    exec .nop s = .next { s with status := s.okStatus } ∧
    exec .clrerr s = .next { s with status := { s.okStatus with sticky := false, firsterr := .ok } }

/-! ### Symbol Translator -/

/-- R113: where TXT spells a password, PARSE writes its codes to SYM, sets ERR to 0, and changes nothing else. -/
def Obligations.ParseTranslatesPassword : Prop :=
  ∀ (s : State) (codes : Vector Code 30), s.cfg.SymTableOk → s.Spells codes →
    exec .parse s = .next { s with status := s.okStatus, sym := codes }

/-- R113, R239: PARSE and DECODE fail in the order TXTLEN, length, first unknown token, and change nothing but the
error effects. -/
def Obligations.ParseFailsInOrder : Prop :=
  ∀ (i : Instr) (s : State), i = .parse ∨ i = .decodePw →
    (256 < s.txtlen.toNat → exec i s = .next (failed .illegalOperand (encode i) s)) ∧
    (s.txtlen.toNat ≤ 256 → (passwordChars s).length ≠ 60 →
      exec i s = .next (failed .invalidLength (BitVec.ofNat 32 (passwordChars s).length) s)) ∧
    (s.txtlen.toNat ≤ 256 → (passwordChars s).length = 60 → ∀ k : Fin 30,
      (∀ j : Fin 30, j < k → ∃ c : Fin 64, s.cfg.symTable[c] = passwordToken s j.val) →
      (∀ c : Fin 64, s.cfg.symTable[c] ≠ passwordToken s k.val) →
      exec i s = .next (failed .invalidSymbol (BitVec.ofNat 32 k.val) s))

/-- R112, R116: SYMDEC puts in RES the code whose entry is the token with its letters upper-cased, and raises
INVALID_SYMBOL with RES = 0 if there is none. -/
def Obligations.SymdecLooksUpToken : Prop :=
  ∀ (s : State) (t0 t1 : Byte), s.cfg.SymTableOk →
    (∀ c : Fin 64, s.cfg.symTable[c] = (upper t0, upper t1) →
      exec (.symdec t0 t1) s = .next { s with status := s.okStatus, res := BitVec.ofNat 32 c.val }) ∧
    ((∀ c : Fin 64, s.cfg.symTable[c] ≠ (upper t0, upper t1)) →
      exec (.symdec t0 t1) s = .next (failed .invalidSymbol 0#32 s))

/-- R117: SYMENC puts the table's token of the code in RES, first character in bits 7:0, second in bits 15:8. -/
def Obligations.SymencGivesToken : Prop :=
  ∀ (s : State) (c : Fin 64),
    exec (.symenc (BitVec.ofNat 6 c.val)) s =
      .next { s with
        status := s.okStatus
        res := BitVec.ofNat 32 (s.cfg.symTable[c].1.toNat + 256 * s.cfg.symTable[c].2.toNat) }

/-- R114, R115: RENDER writes OUT and OUTLEN = 65, ERR to 0, and nothing else; token k stands at 2k + k/5, the separators at
10, 21, 43, 54 (space) and 32 (line break), which fixes all 65 bytes. -/
def Obligations.RenderPlacesTokens : Prop :=
  ∀ s : State, ∃ out : Vector Byte 65,
    exec .render s = .next { s with status := s.okStatus, out := out, outlen := 65#7 } ∧
    (∀ (k : Fin 30) (c : Fin 64), s.sym[k].toNat = c.val →
      out[2 * k.val + k.val / 5]? = some (upper s.cfg.symTable[c].1) ∧
      out[2 * k.val + k.val / 5 + 1]? = some (lower s.cfg.symTable[c].2)) ∧
    out[10] = 0x20#8 ∧ out[21] = 0x20#8 ∧ out[43] = 0x20#8 ∧ out[54] = 0x20#8 ∧ out[32] = 0x0A#8

/-- R118: RENDER, the host's copy of OUT into TXT with TXTLEN = 65, then PARSE: PARSE succeeds and SYM is what it was. -/
def Obligations.RenderThenParseKeepsSym : Prop :=
  ∀ (s t : State) (txt : Vector Byte 256), s.cfg.SymTableOk → exec .render s = .next t →
    (∀ o : Fin 65, txt[o.val]? = some t.out[o]) →
    ∃ u, exec .parse { t with txt := txt, txtlen := 65#9 } = .next u ∧ u.status.err = .ok ∧ u.sym = s.sym

/-! ### Permutation Stage -/

/-- R131: PAPPLY sets PRM[i] to SYM[P[i]] for i = 0..29; PRM[30] and everything else but ERR stays. -/
def Obligations.PapplyMovesSymbols : Prop :=
  ∀ s : State, ∃ prm : Vector Code 31,
    exec .papply s = .next { s with status := s.okStatus, prm := prm } ∧
    (∀ i : Fin 30, prm[i.val]? = some s.sym[s.cfg.perm[i]]) ∧ prm[30] = s.prm[30]

/-- R132: PUNAPPLY sets SYM[P[i]] to PRM[i] for i = 0..29, with P a permutation; everything else but ERR stays. -/
def Obligations.PunapplyMovesSymbols : Prop :=
  ∀ s : State, s.cfg.PermOk → ∃ sym : Vector Code 30,
    exec .punapply s = .next { s with status := s.okStatus, sym := sym } ∧
    ∀ i : Fin 30, s.prm[i.val]? = some sym[s.cfg.perm[i]]

/-- R133: PAPPLY then PUNAPPLY leaves SYM unchanged; PUNAPPLY then PAPPLY leaves PRM[0..29] unchanged. -/
def Obligations.PermutationsUndoEachOther : Prop :=
  ∀ s : State, s.cfg.PermOk →
    (∃ t, execAll [.papply, .punapply] s = .next t ∧ t.sym = s.sym) ∧
    ∃ t, execAll [.punapply, .papply] s = .next t ∧ t.prm = s.prm

/-! ### Bit Repacker -/

/-- R142, R143 with the bit order of R67 and R68: PACK68 makes frame bit k the bit k mod 6 of PRM[k div 6] for k < 180, and 0
above; everything else but ERR stays. -/
def Obligations.Pack68MovesBits : Prop :=
  ∀ s : State, ∃ frm : Vector Byte 23,
    exec .pack68 s = .next { s with status := s.okStatus, frm := frm } ∧
    ∀ k, k < 184 → frameBit frm k =
      if k < 180 then (s.prm[k / 6]?.getD 0#6).getLsbD (k % 6) else false

/-- R144, R145 with the bit order of R67 and R68: PACK86 makes bit b of PRM[j] the frame bit 6j + b, and 0 above bit 183;
PRM[30] is the high half of FRM[22]; everything else but ERR stays. -/
def Obligations.Pack86MovesBits : Prop :=
  ∀ s : State, ∃ prm : Vector Code 31,
    exec .pack86 s = .next { s with status := s.okStatus, prm := prm } ∧
    (∀ (j : Fin 31) (b : Fin 6), prm[j].getLsbD b.val =
      if 6 * j.val + b.val < 184 then frameBit s.frm (6 * j.val + b.val) else false) ∧
    prm[30].toNat = s.frm[22].toNat / 16

/-- R146: PACK68 then PACK86 restores PRM[0..29] and sets PRM[30] to 0; PACK86 then PACK68 restores FRM exactly when bits
7:4 of FRM[22] are 0, and otherwise clears them. -/
def Obligations.RepacksUndoEachOther : Prop :=
  ∀ s : State,
    (∃ t, execAll [.pack68, .pack86] s = .next t ∧ t.prm = s.prm.set 30 0#6) ∧
    ∃ t, execAll [.pack86, .pack68] s = .next t ∧
      (t.frm = s.frm ↔ s.frm[22] &&& 0xF0#8 = 0#8) ∧ t.frm = s.frm.set 22 (s.frm[22] &&& 0x0F#8)

/-- R148, R153: BRINIT and BWINIT with legal operands start a record on the window and change nothing else but ERR; a width out
of 1..8, a width above 6 on PRM and a window past the buffer's end raise ILLEGAL_OPERAND. -/
def Obligations.StreamInitOpensWindow : Prop :=
  ∀ (s : State) (w : BitVec 4) (buf : BufSel) (start len : Byte),
    let size := match buf with | .prm => 31 | .frm => 23
    let opened : BitStream :=
      { act := true, buf := buf, w := w, idx := start, stop := BitVec.ofNat 8 (start.toNat + len.toNat)
        n := 0#6, acc := 0#64 }
    (1 ≤ w.toNat → w.toNat ≤ 8 → (buf = .prm → w.toNat ≤ 6) → start.toNat + len.toNat ≤ size →
      exec (.brinit w buf start len) s = .next { s with status := s.okStatus, br := opened } ∧
      exec (.bwinit w buf start len) s = .next { s with status := s.okStatus, bw := opened }) ∧
    (w.toNat < 1 ∨ 8 < w.toNat ∨ (buf = .prm ∧ 6 < w.toNat) ∨ size < start.toNat + len.toNat →
      exec (.brinit w buf start len) s =
        .next (failed .illegalOperand (encode (.brinit w buf start len)) s) ∧
      exec (.bwinit w buf start len) s =
        .next (failed .illegalOperand (encode (.bwinit w buf start len)) s))

/-- R149: BRREAD loads, lazily, as many units as the read needs and the window has; RES gets the low NB bits held then, which
leave the accumulator; nothing else but ERR changes. NB out of 1..32 raises ILLEGAL_OPERAND, then a reader not initialised
raises NOT_INIT. The success is stated for a record that a run reaches (`BitStream.Inv`). -/
def Obligations.BrreadTakesNextBits : Prop :=
  ∀ (s : State) (nb : Byte),
    (nb.toNat < 1 ∨ 32 < nb.toNat →
      exec (.brread nb) s = .next (failed .illegalOperand (encode (.brread nb)) s)) ∧
    (1 ≤ nb.toNat → nb.toNat ≤ 32 → s.br.act = false →
      exec (.brread nb) s = .next (failed .notInit (encode (.brread nb)) s)) ∧
    (1 ≤ nb.toNat → nb.toNat ≤ 32 → s.br.act = true → s.br.Inv →
      let w := s.br.w.toNat
      let units := min (s.br.stop.toNat - s.br.idx.toNat) ((nb.toNat - s.br.n.toNat + (w - 1)) / w)
      let bits := s.br.acc.toNat + stream w (windowUnits s s.br.buf s.br.idx.toNat units w) * 2 ^ s.br.n.toNat
      exec (.brread nb) s =
        .next { s with
          status := s.okStatus
          res := BitVec.ofNat 32 (bits % 2 ^ nb.toNat)
          br := { s.br with
            idx := BitVec.ofNat 8 (s.br.idx.toNat + units)
            n := BitVec.ofNat 6 (s.br.n.toNat + w * units - nb.toNat)
            acc := BitVec.ofNat 64 (bits / 2 ^ nb.toNat) } })

/-- R150: after BRINIT, reads of widths n1, …, nk, n return consecutive fields of the window's stream, with zero bits beyond
its end. -/
def Obligations.ReadsReturnConsecutiveFields : Prop :=
  ∀ (s : State) (w : BitVec 4) (buf : BufSel) (start len : Byte) (before : List Byte) (nb : Byte),
    (Instr.brinit w buf start len).wellFormed = true →
    (∀ n ∈ before ++ [nb], 1 ≤ n.toNat ∧ n.toNat ≤ 32) →
    ∃ t, execAll (.brinit w buf start len :: (before ++ [nb]).map Instr.brread) s = .next t ∧
      t.res.toNat =
        (stream w.toNat (windowUnits s buf start.toNat len.toNat w.toNat) >>>
          (before.map BitVec.toNat).sum) % 2 ^ nb.toNat

/-- R151: BRMORE on an initialised reader puts in RES whether unread elements or bits remain, and changes nothing else but
ERR; on one not initialised it raises NOT_INIT. -/
def Obligations.BrmoreReportsMore : Prop :=
  ∀ s : State,
    (s.br.act = true →
      exec .brmore s =
        .next { s with
          status := s.okStatus
          res := if s.br.idx.toNat < s.br.stop.toNat ∨ 0 < s.br.n.toNat then 1#32 else 0#32 }) ∧
    (s.br.act = false → exec .brmore s = .next (failed .notInit (encode .brmore) s))

/-- R154: BWWRITE appends OPR above the bits held, stores every unit that fills in the elements from IDX on, keeps the rest, and
changes no other element, no other buffer and nothing else but ERR and BW. It raises, in this order, ILLEGAL_OPERAND, NOT_INIT,
FIELD_RANGE and BUF_OVERFLOW. The success is stated for a record that a run reaches (`BitStream.Inv`). -/
def Obligations.BwwriteStoresFullUnits : Prop :=
  ∀ (s : State) (nb : Byte),
    let w := s.bw.w.toNat
    let units := (s.bw.n.toNat + nb.toNat) / w
    let bits := s.bw.acc.toNat + s.opr.toNat * 2 ^ s.bw.n.toNat
    (nb.toNat < 1 ∨ 32 < nb.toNat →
      exec (.bwwrite nb) s = .next (failed .illegalOperand (encode (.bwwrite nb)) s)) ∧
    (1 ≤ nb.toNat → nb.toNat ≤ 32 →
      (s.bw.act = false → exec (.bwwrite nb) s = .next (failed .notInit (encode (.bwwrite nb)) s)) ∧
      (s.bw.act = true → 2 ^ nb.toNat ≤ s.opr.toNat →
        exec (.bwwrite nb) s = .next (failed .fieldRange (encode (.bwwrite nb)) s)) ∧
      (s.bw.act = true → s.opr.toNat < 2 ^ nb.toNat → s.bw.stop.toNat < s.bw.idx.toNat + units →
        exec (.bwwrite nb) s = .next (failed .bufOverflow (encode (.bwwrite nb)) s)) ∧
      (s.bw.act = true → s.opr.toNat < 2 ^ nb.toNat → s.bw.idx.toNat + units ≤ s.bw.stop.toNat → s.bw.Inv →
        ∃ (prm : Vector Code 31) (frm : Vector Byte 23),
          let t : State :=
            { s with
              status := s.okStatus
              prm := prm
              frm := frm
              bw := { s.bw with
                idx := BitVec.ofNat 8 (s.bw.idx.toNat + units)
                n := BitVec.ofNat 6 ((s.bw.n.toNat + nb.toNat) % w)
                acc := BitVec.ofNat 64 (bits / 2 ^ (w * units)) } }
          exec (.bwwrite nb) s = .next t ∧
          (s.bw.buf = .prm → frm = s.frm) ∧ (s.bw.buf = .frm → prm = s.prm) ∧
          ∀ e, (bufferUnits t s.bw.buf)[e]? =
            if s.bw.idx.toNat ≤ e ∧ e < s.bw.idx.toNat + units then
              some (bits / 2 ^ (w * (e - s.bw.idx.toNat)) % 2 ^ w)
            else (bufferUnits s s.bw.buf)[e]?))

/-- R155: BWFLUSH with bits held stores them, zero-padded, in element IDX, which moves on, and empties the accumulator; with none
it stores nothing. Nothing else changes but ERR. A writer not initialised raises NOT_INIT, and bits held with a full window
raise BUF_OVERFLOW. The store is stated for a record that a run reaches (`BitStream.Inv`). -/
def Obligations.BwflushStoresPartialUnit : Prop :=
  ∀ s : State,
    (s.bw.act = false → exec .bwflush s = .next (failed .notInit (encode .bwflush) s)) ∧
    (s.bw.act = true → s.bw.n.toNat = 0 → exec .bwflush s = .next { s with status := s.okStatus }) ∧
    (s.bw.act = true → 0 < s.bw.n.toNat → s.bw.stop.toNat ≤ s.bw.idx.toNat →
      exec .bwflush s = .next (failed .bufOverflow (encode .bwflush) s)) ∧
    (s.bw.act = true → 0 < s.bw.n.toNat → s.bw.idx.toNat < s.bw.stop.toNat → s.bw.Inv →
      exec .bwflush s =
        .next { s with
          status := s.okStatus
          prm := match s.bw.buf with
            | .prm => s.prm.setIfInBounds s.bw.idx.toNat (BitVec.ofNat 6 s.bw.acc.toNat)
            | .frm => s.prm
          frm := match s.bw.buf with
            | .prm => s.frm
            | .frm => s.frm.setIfInBounds s.bw.idx.toNat (BitVec.ofNat 8 s.bw.acc.toNat)
          bw := { s.bw with idx := BitVec.ofNat 8 (s.bw.idx.toNat + 1), n := 0#6, acc := 0#64 } })

/-- R140, R153, R154, R155: fields written one after the other after BWINIT, then BWFLUSH, stand in the window as one
stream in the order written, zero-padded to a whole unit. -/
def Obligations.WrittenFieldsFormTheStream : Prop :=
  ∀ (s : State) (w : BitVec 4) (buf : BufSel) (start len : Byte) (fields : List (Word × Byte)),
    (Instr.bwinit w buf start len).wellFormed = true →
    (∀ f ∈ fields, 1 ≤ f.2.toNat ∧ f.2.toNat ≤ 32 ∧ f.1.toNat < 2 ^ f.2.toNat) →
    fieldBits fields ≤ w.toNat * len.toNat →
    ∃ t u v, exec (.bwinit w buf start len) s = .next t ∧ writeFields fields t = .next u ∧
      exec .bwflush u = .next v ∧ v.status.err = .ok ∧
      stream w.toNat
        (windowUnits v buf start.toNat ((fieldBits fields + w.toNat - 1) / w.toNat) w.toNat) = fieldStream fields

/-! ### Stream Obfuscator -/

/-- After R171, R172, R175: PSEEDI sets ST to the array of R172, C1 = 0, C2 = 31, SEEDED = 1, whatever the generator held;
nothing else but ERR changes. That the array is the one computed on unbounded integers, and that each element lies in
0..0x7FFFFFFE, is R178, an inference of the spec. -/
def Obligations.PseediSeedsAsIntegers : Prop :=
  ∀ (s : State) (seed : BitVec 16), ∃ st : Vector Word 56,
    exec (.pseedi seed) s =
      .next { s with
        status := { s.okStatus with seeded := true }
        gen := { st := st, c1 := 0, c2 := 31 } } ∧
    ∀ i : Fin 56, (refSeed seed.toNat)[i.val]? = some st[i].toInt ∧ 0 ≤ st[i].toInt ∧ st[i].toInt ≤ 0x7FFFFFFE

/-- R174: PSEEDF sets the generator that PSEEDI sets with the seed FRM[0] + 256 * FRM[1], and SEEDED; nothing else but ERR
changes, FRM and RES neither. -/
def Obligations.PseedfSeedsFromFrame : Prop :=
  ∀ s : State, ∃ gen : Gen,
    let t : State := { s with status := { s.okStatus with seeded := true }, gen := gen }
    exec .pseedf s = .next t ∧
    exec (.pseedi (BitVec.ofNat 16 (s.frm[0].toNat + 256 * s.frm[1].toNat))) s = .next t

/-- R176, R177: PNEXT moves both cursors on, 55 to 1, takes the difference of the two elements, adds 0x7FFFFFFF if it is
negative, stores the value at C1 and puts it in RES; nothing else but ERR changes. Before any seeding it raises NOT_SEEDED. The
success is stated for a generator that a run reaches (`Gen.Inv`), where the value lies in 0..0x7FFFFFFE (R178). -/
def Obligations.PnextGivesNextValue : Prop :=
  ∀ s : State,
    (s.status.seeded = false → exec .pnext s = .next (failed .notSeeded (encode .pnext) s)) ∧
    (s.status.seeded = true → s.gen.Inv s.status.seeded →
      ∃ (c1 c2 : Fin 56) (v : Word),
        c1.val = s.gen.c1.val % 55 + 1 ∧ c2.val = s.gen.c2.val % 55 + 1 ∧
        v.toInt = refFix (s.gen.st[c1].toInt - s.gen.st[c2].toInt) ∧ 0 ≤ v.toInt ∧ v.toInt ≤ 0x7FFFFFFE ∧
        exec .pnext s =
          .next { s with
            status := s.okStatus
            res := v
            gen := { st := s.gen.st.set c1 v, c1 := c1, c2 := c2 } })

/-- R180, R181, R183: OBFDEC and OBFENC subtract or add, to FRM[2..22], the low bytes of the 21 values that PNEXT would give
after PSEEDF, keep FRM[0] and FRM[1], mask FRM[22] to its low 4 bits, and leave the generator as the 21st PNEXT would, at
C1 = 21 and C2 = 52. Nothing else changes but ERR and SEEDED. -/
def Obligations.ObfuscationUsesTheKeystream : Prop :=
  ∀ s : State, ∃ key : Fin 21 → State,
    (∀ j : Fin 21, execAll (.pseedf :: List.replicate (j.val + 1) .pnext) s = .next (key j)) ∧
    ∀ (i : Instr) (f : Byte → Byte → Byte),
      (i = .obfdec ∧ f = fun b k => b - k) ∨ (i = .obfenc ∧ f = fun b k => b + k) →
      ∃ (frm : Vector Byte 23) (gen : Gen),
        exec i s =
          .next { s with status := { s.okStatus with seeded := true }, frm := frm, gen := gen } ∧
        gen = (key 20).gen ∧ gen.c1 = 21 ∧ gen.c2 = 52 ∧
        frm[0] = s.frm[0] ∧ frm[1] = s.frm[1] ∧
        (∀ j : Fin 20, frm[j.val + 2]? =
          s.frm[j.val + 2]?.map fun b => f b (BitVec.ofNat 8 (key ⟨j.val, by omega⟩).res.toNat)) ∧
        frm[22] = f s.frm[22] (BitVec.ofNat 8 (key 20).res.toNat) &&& 0x0F#8

/-- R182: OBFENC then OBFDEC restores FRM[0..21] and the low 4 bits of FRM[22]. -/
def Obligations.ObfdecUndoesObfenc : Prop :=
  ∀ s : State, ∃ t, execAll [.obfenc, .obfdec] s = .next t ∧ t.frm = s.frm.set 22 (s.frm[22] &&& 0x0F#8)

/-! ### Checksum and CRC -/

/-- R190, R192: CKSUM on a legal window puts the checksum of the window in CKSUM and RES, and changes nothing else but ERR; an
empty window and one past FRM[22] raise ILLEGAL_OPERAND. -/
def Obligations.CksumComputesWindow : Prop :=
  ∀ (s : State) (start len : Byte),
    (1 ≤ len.toNat → start.toNat + len.toNat ≤ 23 →
      exec (.cksum start len) s =
        .next { s with
          status := s.okStatus
          cksum := BitVec.ofNat 8 (refChk (fun j => frameByte s (start.toNat + j)) len.toNat)
          res := BitVec.ofNat 32 (refChk (fun j => frameByte s (start.toNat + j)) len.toNat) }) ∧
    (len.toNat < 1 ∨ 23 < start.toNat + len.toNat →
      exec (.cksum start len) s = .next (failed .illegalOperand (encode (.cksum start len)) s))

/-- R190, R193, R194, R248: CKCHK puts the checksum of FRM[1..22] in CKSUM and RES, sets CKDONE, and sets CKOK to whether
FRM[0] equals it, without an error on a mismatch; CKGEN stores it in FRM[0] and sets CKDONE and CKOK. Nothing else but ERR
changes. -/
def Obligations.FrameChecksumCheckedAndGenerated : Prop :=
  ∀ s : State,
    let c := refChk (fun j => frameByte s (j + 1)) 22
    exec .ckchk s =
      .next { s with
        status := { s.okStatus with ckdone := true, ckok := decide (s.frm[0].toNat = c) }
        cksum := BitVec.ofNat 8 c
        res := BitVec.ofNat 32 c } ∧
    exec .ckgen s =
      .next { s with
        status := { s.okStatus with ckdone := true, ckok := true }
        frm := s.frm.set 0 (BitVec.ofNat 8 c)
        cksum := BitVec.ofNat 8 c
        res := BitVec.ofNat 32 c }

/-- R199, R201, R202, R203: CRCINIT loads CRC_INIT, CRCBYTE feeds a byte through the table, CRCFIN puts CRC xor CRC_XOROUT in
RES and keeps CRC. Nothing else but ERR changes. -/
def Obligations.CrcCommandEffects : Prop :=
  ∀ (s : State) (b : Byte) (k : Fin 256),
    exec .crcinit s = .next { s with status := s.okStatus, crc := s.cfg.crcInit } ∧
    (k.val = (s.crc.toNat ^^^ b.toNat) % 256 →
      exec (.crcbyte b) s =
        .next { s with
          status := s.okStatus
          crc := s.cfg.crcTable[k] ^^^ BitVec.ofNat 32 (s.crc.toNat / 256) }) ∧
    exec .crcfin s = .next { s with status := s.okStatus, res := s.crc ^^^ s.cfg.crcXorOut }

/-- R204, R205: CRCSYM does what CRCINIT, CRCBYTE of every glyph byte of SYM[0..29] in order, and CRCFIN do, and puts the low
30 bits of the result in REVIVE. -/
def Obligations.CrcsymFeedsGlyphs : Prop :=
  ∀ s : State, ∃ t,
    execAll (.crcinit ::
      (((List.range 30).flatMap fun k => ((s.sym[k]?.bind fun c => s.cfg.symGlyph[c.toNat]?).getD [])).map
        Instr.crcbyte ++ [.crcfin])) s = .next t ∧
    exec .crcsym s = .next { t with revive := BitVec.ofNat 30 t.res.toNat }

/-- R10, R11, R200, R203 with the default parameters: the bytes "123456789" give the final value 0xCBF43926. The tables after
reset hold the defaults by the model's choice (log entry 7). -/
def Obligations.DefaultCrcCheckValue : Prop :=
  ∃ t,
    execAll ([.crcinit] ++
      [0x31#8, 0x32#8, 0x33#8, 0x34#8, 0x35#8, 0x36#8, 0x37#8, 0x38#8, 0x39#8].map Instr.crcbyte ++ [.crcfin])
      State.reset = .next t ∧ t.res = 0xCBF43926#32 ∧ t.crc = 0x340BC6D9#32

/-! ### Pipelines -/

/-- R216: where TXT spells a password, DECODE does what PARSE, CRCSYM, PAPPLY, PACK68, OBFDEC and CKCHK do in this order, and
then puts CKSUM in RES; where PARSE fails, DECODE fails with the same code and no step runs (RES = its own word for
ILLEGAL_OPERAND, else as for PARSE). -/
def Obligations.DecodeRunsItsSteps : Prop :=
  (∀ (s : State) (codes : Vector Code 30), s.cfg.SymTableOk → s.Spells codes →
    ∃ t, execAll [.parse, .crcsym, .papply, .pack68, .obfdec, .ckchk] s = .next t ∧ t.status.err = .ok ∧
      exec .decodePw s = .next { t with res := BitVec.ofNat 32 t.cksum.toNat }) ∧
  ∀ s t : State, exec .parse s = .next t → t.status.err ≠ .ok →
    exec .decodePw s =
      .next (failed t.status.err (if t.status.err = .illegalOperand then encode .decodePw else t.res) s)

/-- R218: ENCODE does what CKGEN (with G = 1 only), OBFENC, PACK86, PUNAPPLY and RENDER do in this order, and then puts FRM[0]
in RES. -/
def Obligations.EncodeRunsItsSteps : Prop :=
  ∀ (s : State) (g : Bool),
    ∃ t, execAll ((if g = true then [.ckgen] else []) ++ [.obfenc, .pack86, .punapply, .render]) s = .next t ∧
      t.status.err = .ok ∧ exec (.encodePw g) s = .next { t with res := BitVec.ofNat 32 t.frm[0].toNat }

/-- R223: what DECODE leaves in the registers and buffers it writes depends only on TXT[0..TXTLEN-1], TXTLEN and the
tables; what ENCODE leaves, only on FRM, G and the tables (and CKDONE, CKOK with G = 0). -/
def Obligations.PipelinesIgnoreEarlierState : Prop :=
  (∀ (a b : State) (codes : Vector Code 30), a.cfg.SymTableOk → a.Spells codes → a.cfg = b.cfg → a.txtlen = b.txtlen →
    (∀ i : Fin 256, i.val < a.txtlen.toNat → a.txt[i] = b.txt[i]) →
    ∃ t u, exec .decodePw a = .next t ∧ exec .decodePw b = .next u ∧
      t.sym = u.sym ∧ (∀ i : Fin 30, t.prm[i.val]? = u.prm[i.val]?) ∧ t.frm = u.frm ∧ t.gen = u.gen ∧ t.crc = u.crc ∧
      t.revive = u.revive ∧ t.cksum = u.cksum ∧ t.res = u.res ∧ t.status.err = u.status.err ∧
      t.status.ckdone = u.status.ckdone ∧ t.status.ckok = u.status.ckok ∧ t.status.seeded = u.status.seeded) ∧
  ∀ (a b : State) (g : Bool), a.cfg.PermOk → a.cfg = b.cfg → a.frm = b.frm →
    ∃ t u, exec (.encodePw g) a = .next t ∧ exec (.encodePw g) b = .next u ∧
      t.frm = u.frm ∧ t.prm = u.prm ∧ t.sym = u.sym ∧ t.out = u.out ∧ t.outlen = u.outlen ∧ t.gen = u.gen ∧
      t.res = u.res ∧ t.status.err = u.status.err ∧ t.status.seeded = u.status.seeded ∧
      (g = true → t.cksum = u.cksum ∧ t.status.ckdone = u.status.ckdone ∧ t.status.ckok = u.status.ckok)

/-- R220: a frame whose padding is 0, encoded with G, copied from OUT to TXT with TXTLEN = 65 and decoded, comes back: with G = 1
with the fresh checksum in FRM[0] and CKOK = 1, with G = 0 as it was, CKOK telling whether FRM[0] was its checksum. -/
def Obligations.EncodeDecodeRoundTrip : Prop :=
  ∀ (s t : State) (g : Bool) (txt : Vector Byte 256), s.cfg.SymTableOk → s.cfg.PermOk →
    s.frm[22] &&& 0xF0#8 = 0#8 → exec (.encodePw g) s = .next t →
    (∀ o : Fin 65, txt[o.val]? = some t.out[o]) →
    ∃ u, exec .decodePw { t with txt := txt, txtlen := 65#9 } = .next u ∧ u.status.err = .ok ∧
      (g = true →
        u.frm = s.frm.set 0 (BitVec.ofNat 8 (refChk (fun j => frameByte s (j + 1)) 22)) ∧ u.status.ckok = true) ∧
      (g = false →
        u.frm = s.frm ∧
          (u.status.ckok = true ↔ s.frm[0].toNat = refChk (fun j => frameByte s (j + 1)) 22))

/-! ### Invariants -/

/-- R48, R49: the invariant holds after reset. -/
def Obligations.ResetMeetsInvariant : Prop := State.reset.Inv

/-- R49: every step keeps the invariant, whatever the host does. -/
def Obligations.StepKeepsInvariant : Prop := ∀ s t : State, s.Inv → step s = .next t → t.Inv

/-- R46: no step changes the constant tables, reset included. -/
def Obligations.StepKeepsTables : Prop := ∀ s t : State, step s = .next t → t.cfg = s.cfg
end

