-- ==== Sys2Proof/Laws/Bodies.lean ====
section
/-! SUPPORT. One lemma per field that each command body keeps, and the fields that it writes as named values. -/

namespace Sys2Proof.Machine

variable (s : State) (seed : BitVec 16) (c : Byte) (f : Byte → Word → Byte) (nb : Nat) (b : BitStream)

/-! ### renderBody -/

@[simp] theorem renderBody_status : (renderBody s).status = s.status := by simp only [renderBody]
@[simp] theorem renderBody_res : (renderBody s).res = s.res := by simp only [renderBody]
@[simp] theorem renderBody_opr : (renderBody s).opr = s.opr := by simp only [renderBody]
@[simp] theorem renderBody_txtlen : (renderBody s).txtlen = s.txtlen := by simp only [renderBody]
@[simp] theorem renderBody_cksum : (renderBody s).cksum = s.cksum := by simp only [renderBody]
@[simp] theorem renderBody_crc : (renderBody s).crc = s.crc := by simp only [renderBody]
@[simp] theorem renderBody_revive : (renderBody s).revive = s.revive := by simp only [renderBody]
@[simp] theorem renderBody_gen : (renderBody s).gen = s.gen := by simp only [renderBody]
@[simp] theorem renderBody_br : (renderBody s).br = s.br := by simp only [renderBody]
@[simp] theorem renderBody_bw : (renderBody s).bw = s.bw := by simp only [renderBody]
@[simp] theorem renderBody_txt : (renderBody s).txt = s.txt := by simp only [renderBody]
@[simp] theorem renderBody_sym : (renderBody s).sym = s.sym := by simp only [renderBody]
@[simp] theorem renderBody_prm : (renderBody s).prm = s.prm := by simp only [renderBody]
@[simp] theorem renderBody_frm : (renderBody s).frm = s.frm := by simp only [renderBody]
@[simp] theorem renderBody_cfg : (renderBody s).cfg = s.cfg := by simp only [renderBody]
@[simp] theorem renderBody_host : (renderBody s).host = s.host := by simp only [renderBody]
@[simp] theorem renderBody_rdata : (renderBody s).rdata = s.rdata := by simp only [renderBody]
@[simp] theorem renderBody_outlen : (renderBody s).outlen = 65#7 := rfl

/-! ### papplyBody -/

@[simp] theorem papplyBody_status : (papplyBody s).status = s.status := by simp only [papplyBody]
@[simp] theorem papplyBody_res : (papplyBody s).res = s.res := by simp only [papplyBody]
@[simp] theorem papplyBody_opr : (papplyBody s).opr = s.opr := by simp only [papplyBody]
@[simp] theorem papplyBody_txtlen : (papplyBody s).txtlen = s.txtlen := by simp only [papplyBody]
@[simp] theorem papplyBody_outlen : (papplyBody s).outlen = s.outlen := by simp only [papplyBody]
@[simp] theorem papplyBody_cksum : (papplyBody s).cksum = s.cksum := by simp only [papplyBody]
@[simp] theorem papplyBody_crc : (papplyBody s).crc = s.crc := by simp only [papplyBody]
@[simp] theorem papplyBody_revive : (papplyBody s).revive = s.revive := by simp only [papplyBody]
@[simp] theorem papplyBody_gen : (papplyBody s).gen = s.gen := by simp only [papplyBody]
@[simp] theorem papplyBody_br : (papplyBody s).br = s.br := by simp only [papplyBody]
@[simp] theorem papplyBody_bw : (papplyBody s).bw = s.bw := by simp only [papplyBody]
@[simp] theorem papplyBody_txt : (papplyBody s).txt = s.txt := by simp only [papplyBody]
@[simp] theorem papplyBody_sym : (papplyBody s).sym = s.sym := by simp only [papplyBody]
@[simp] theorem papplyBody_frm : (papplyBody s).frm = s.frm := by simp only [papplyBody]
@[simp] theorem papplyBody_out : (papplyBody s).out = s.out := by simp only [papplyBody]
@[simp] theorem papplyBody_cfg : (papplyBody s).cfg = s.cfg := by simp only [papplyBody]
@[simp] theorem papplyBody_host : (papplyBody s).host = s.host := by simp only [papplyBody]
@[simp] theorem papplyBody_rdata : (papplyBody s).rdata = s.rdata := by simp only [papplyBody]

/-! ### punapplyBody -/

@[simp] theorem punapplyBody_status : (punapplyBody s).status = s.status := by simp only [punapplyBody]
@[simp] theorem punapplyBody_res : (punapplyBody s).res = s.res := by simp only [punapplyBody]
@[simp] theorem punapplyBody_opr : (punapplyBody s).opr = s.opr := by simp only [punapplyBody]
@[simp] theorem punapplyBody_txtlen : (punapplyBody s).txtlen = s.txtlen := by simp only [punapplyBody]
@[simp] theorem punapplyBody_outlen : (punapplyBody s).outlen = s.outlen := by simp only [punapplyBody]
@[simp] theorem punapplyBody_cksum : (punapplyBody s).cksum = s.cksum := by simp only [punapplyBody]
@[simp] theorem punapplyBody_crc : (punapplyBody s).crc = s.crc := by simp only [punapplyBody]
@[simp] theorem punapplyBody_revive : (punapplyBody s).revive = s.revive := by simp only [punapplyBody]
@[simp] theorem punapplyBody_gen : (punapplyBody s).gen = s.gen := by simp only [punapplyBody]
@[simp] theorem punapplyBody_br : (punapplyBody s).br = s.br := by simp only [punapplyBody]
@[simp] theorem punapplyBody_bw : (punapplyBody s).bw = s.bw := by simp only [punapplyBody]
@[simp] theorem punapplyBody_txt : (punapplyBody s).txt = s.txt := by simp only [punapplyBody]
@[simp] theorem punapplyBody_prm : (punapplyBody s).prm = s.prm := by simp only [punapplyBody]
@[simp] theorem punapplyBody_frm : (punapplyBody s).frm = s.frm := by simp only [punapplyBody]
@[simp] theorem punapplyBody_out : (punapplyBody s).out = s.out := by simp only [punapplyBody]
@[simp] theorem punapplyBody_cfg : (punapplyBody s).cfg = s.cfg := by simp only [punapplyBody]
@[simp] theorem punapplyBody_host : (punapplyBody s).host = s.host := by simp only [punapplyBody]
@[simp] theorem punapplyBody_rdata : (punapplyBody s).rdata = s.rdata := by simp only [punapplyBody]
@[simp] theorem punapplyBody_sym : (punapplyBody s).sym = unpermuted s.cfg s.prm s.sym := rfl

/-! ### pack68Body -/

@[simp] theorem pack68Body_status : (pack68Body s).status = s.status := by simp only [pack68Body]
@[simp] theorem pack68Body_res : (pack68Body s).res = s.res := by simp only [pack68Body]
@[simp] theorem pack68Body_opr : (pack68Body s).opr = s.opr := by simp only [pack68Body]
@[simp] theorem pack68Body_txtlen : (pack68Body s).txtlen = s.txtlen := by simp only [pack68Body]
@[simp] theorem pack68Body_outlen : (pack68Body s).outlen = s.outlen := by simp only [pack68Body]
@[simp] theorem pack68Body_cksum : (pack68Body s).cksum = s.cksum := by simp only [pack68Body]
@[simp] theorem pack68Body_crc : (pack68Body s).crc = s.crc := by simp only [pack68Body]
@[simp] theorem pack68Body_revive : (pack68Body s).revive = s.revive := by simp only [pack68Body]
@[simp] theorem pack68Body_gen : (pack68Body s).gen = s.gen := by simp only [pack68Body]
@[simp] theorem pack68Body_br : (pack68Body s).br = s.br := by simp only [pack68Body]
@[simp] theorem pack68Body_bw : (pack68Body s).bw = s.bw := by simp only [pack68Body]
@[simp] theorem pack68Body_txt : (pack68Body s).txt = s.txt := by simp only [pack68Body]
@[simp] theorem pack68Body_sym : (pack68Body s).sym = s.sym := by simp only [pack68Body]
@[simp] theorem pack68Body_prm : (pack68Body s).prm = s.prm := by simp only [pack68Body]
@[simp] theorem pack68Body_out : (pack68Body s).out = s.out := by simp only [pack68Body]
@[simp] theorem pack68Body_cfg : (pack68Body s).cfg = s.cfg := by simp only [pack68Body]
@[simp] theorem pack68Body_host : (pack68Body s).host = s.host := by simp only [pack68Body]
@[simp] theorem pack68Body_rdata : (pack68Body s).rdata = s.rdata := by simp only [pack68Body]

/-! ### pack86Body -/

@[simp] theorem pack86Body_status : (pack86Body s).status = s.status := by simp only [pack86Body]
@[simp] theorem pack86Body_res : (pack86Body s).res = s.res := by simp only [pack86Body]
@[simp] theorem pack86Body_opr : (pack86Body s).opr = s.opr := by simp only [pack86Body]
@[simp] theorem pack86Body_txtlen : (pack86Body s).txtlen = s.txtlen := by simp only [pack86Body]
@[simp] theorem pack86Body_outlen : (pack86Body s).outlen = s.outlen := by simp only [pack86Body]
@[simp] theorem pack86Body_cksum : (pack86Body s).cksum = s.cksum := by simp only [pack86Body]
@[simp] theorem pack86Body_crc : (pack86Body s).crc = s.crc := by simp only [pack86Body]
@[simp] theorem pack86Body_revive : (pack86Body s).revive = s.revive := by simp only [pack86Body]
@[simp] theorem pack86Body_gen : (pack86Body s).gen = s.gen := by simp only [pack86Body]
@[simp] theorem pack86Body_br : (pack86Body s).br = s.br := by simp only [pack86Body]
@[simp] theorem pack86Body_bw : (pack86Body s).bw = s.bw := by simp only [pack86Body]
@[simp] theorem pack86Body_txt : (pack86Body s).txt = s.txt := by simp only [pack86Body]
@[simp] theorem pack86Body_sym : (pack86Body s).sym = s.sym := by simp only [pack86Body]
@[simp] theorem pack86Body_frm : (pack86Body s).frm = s.frm := by simp only [pack86Body]
@[simp] theorem pack86Body_out : (pack86Body s).out = s.out := by simp only [pack86Body]
@[simp] theorem pack86Body_cfg : (pack86Body s).cfg = s.cfg := by simp only [pack86Body]
@[simp] theorem pack86Body_host : (pack86Body s).host = s.host := by simp only [pack86Body]
@[simp] theorem pack86Body_rdata : (pack86Body s).rdata = s.rdata := by simp only [pack86Body]

/-! ### seedBody -/

@[simp] theorem seedBody_res : (seedBody seed s).res = s.res := by simp only [seedBody]
@[simp] theorem seedBody_opr : (seedBody seed s).opr = s.opr := by simp only [seedBody]
@[simp] theorem seedBody_txtlen : (seedBody seed s).txtlen = s.txtlen := by simp only [seedBody]
@[simp] theorem seedBody_outlen : (seedBody seed s).outlen = s.outlen := by simp only [seedBody]
@[simp] theorem seedBody_cksum : (seedBody seed s).cksum = s.cksum := by simp only [seedBody]
@[simp] theorem seedBody_crc : (seedBody seed s).crc = s.crc := by simp only [seedBody]
@[simp] theorem seedBody_revive : (seedBody seed s).revive = s.revive := by simp only [seedBody]
@[simp] theorem seedBody_br : (seedBody seed s).br = s.br := by simp only [seedBody]
@[simp] theorem seedBody_bw : (seedBody seed s).bw = s.bw := by simp only [seedBody]
@[simp] theorem seedBody_txt : (seedBody seed s).txt = s.txt := by simp only [seedBody]
@[simp] theorem seedBody_sym : (seedBody seed s).sym = s.sym := by simp only [seedBody]
@[simp] theorem seedBody_prm : (seedBody seed s).prm = s.prm := by simp only [seedBody]
@[simp] theorem seedBody_frm : (seedBody seed s).frm = s.frm := by simp only [seedBody]
@[simp] theorem seedBody_out : (seedBody seed s).out = s.out := by simp only [seedBody]
@[simp] theorem seedBody_cfg : (seedBody seed s).cfg = s.cfg := by simp only [seedBody]
@[simp] theorem seedBody_host : (seedBody seed s).host = s.host := by simp only [seedBody]
@[simp] theorem seedBody_rdata : (seedBody seed s).rdata = s.rdata := by simp only [seedBody]
@[simp] theorem seedBody_gen : (seedBody seed s).gen = seedGen seed := rfl
@[simp] theorem seedBody_status : (seedBody seed s).status = s.status.seed := rfl

/-! ### putCksum -/

@[simp] theorem putCksum_status : (putCksum c s).status = s.status := by simp only [putCksum]
@[simp] theorem putCksum_opr : (putCksum c s).opr = s.opr := by simp only [putCksum]
@[simp] theorem putCksum_txtlen : (putCksum c s).txtlen = s.txtlen := by simp only [putCksum]
@[simp] theorem putCksum_outlen : (putCksum c s).outlen = s.outlen := by simp only [putCksum]
@[simp] theorem putCksum_crc : (putCksum c s).crc = s.crc := by simp only [putCksum]
@[simp] theorem putCksum_revive : (putCksum c s).revive = s.revive := by simp only [putCksum]
@[simp] theorem putCksum_gen : (putCksum c s).gen = s.gen := by simp only [putCksum]
@[simp] theorem putCksum_br : (putCksum c s).br = s.br := by simp only [putCksum]
@[simp] theorem putCksum_bw : (putCksum c s).bw = s.bw := by simp only [putCksum]
@[simp] theorem putCksum_txt : (putCksum c s).txt = s.txt := by simp only [putCksum]
@[simp] theorem putCksum_sym : (putCksum c s).sym = s.sym := by simp only [putCksum]
@[simp] theorem putCksum_prm : (putCksum c s).prm = s.prm := by simp only [putCksum]
@[simp] theorem putCksum_frm : (putCksum c s).frm = s.frm := by simp only [putCksum]
@[simp] theorem putCksum_out : (putCksum c s).out = s.out := by simp only [putCksum]
@[simp] theorem putCksum_cfg : (putCksum c s).cfg = s.cfg := by simp only [putCksum]
@[simp] theorem putCksum_host : (putCksum c s).host = s.host := by simp only [putCksum]
@[simp] theorem putCksum_rdata : (putCksum c s).rdata = s.rdata := by simp only [putCksum]
@[simp] theorem putCksum_cksum : (putCksum c s).cksum = c := rfl
@[simp] theorem putCksum_res : (putCksum c s).res = c.setWidth 32 := rfl

/-! ### ckchkBody -/

@[simp] theorem ckchkBody_opr : (ckchkBody s).opr = s.opr := by simp only [ckchkBody, putCksum]
@[simp] theorem ckchkBody_txtlen : (ckchkBody s).txtlen = s.txtlen := by simp only [ckchkBody, putCksum]
@[simp] theorem ckchkBody_outlen : (ckchkBody s).outlen = s.outlen := by simp only [ckchkBody, putCksum]
@[simp] theorem ckchkBody_crc : (ckchkBody s).crc = s.crc := by simp only [ckchkBody, putCksum]
@[simp] theorem ckchkBody_revive : (ckchkBody s).revive = s.revive := by simp only [ckchkBody, putCksum]
@[simp] theorem ckchkBody_gen : (ckchkBody s).gen = s.gen := by simp only [ckchkBody, putCksum]
@[simp] theorem ckchkBody_br : (ckchkBody s).br = s.br := by simp only [ckchkBody, putCksum]
@[simp] theorem ckchkBody_bw : (ckchkBody s).bw = s.bw := by simp only [ckchkBody, putCksum]
@[simp] theorem ckchkBody_txt : (ckchkBody s).txt = s.txt := by simp only [ckchkBody, putCksum]
@[simp] theorem ckchkBody_sym : (ckchkBody s).sym = s.sym := by simp only [ckchkBody, putCksum]
@[simp] theorem ckchkBody_prm : (ckchkBody s).prm = s.prm := by simp only [ckchkBody, putCksum]
@[simp] theorem ckchkBody_frm : (ckchkBody s).frm = s.frm := by simp only [ckchkBody, putCksum]
@[simp] theorem ckchkBody_out : (ckchkBody s).out = s.out := by simp only [ckchkBody, putCksum]
@[simp] theorem ckchkBody_cfg : (ckchkBody s).cfg = s.cfg := by simp only [ckchkBody, putCksum]
@[simp] theorem ckchkBody_host : (ckchkBody s).host = s.host := by simp only [ckchkBody, putCksum]
@[simp] theorem ckchkBody_rdata : (ckchkBody s).rdata = s.rdata := by simp only [ckchkBody, putCksum]
@[simp] theorem ckchkBody_cksum : (ckchkBody s).cksum = frameChk s.frm := rfl
@[simp] theorem ckchkBody_res : (ckchkBody s).res = (frameChk s.frm).setWidth 32 := rfl
@[simp] theorem ckchkBody_status :
    (ckchkBody s).status = s.status.compared (frameChk s.frm == s.frm[(0 : Fin 23)]) := rfl

/-! ### ckgenBody -/

@[simp] theorem ckgenBody_opr : (ckgenBody s).opr = s.opr := by simp only [ckgenBody, putCksum]
@[simp] theorem ckgenBody_txtlen : (ckgenBody s).txtlen = s.txtlen := by simp only [ckgenBody, putCksum]
@[simp] theorem ckgenBody_outlen : (ckgenBody s).outlen = s.outlen := by simp only [ckgenBody, putCksum]
@[simp] theorem ckgenBody_crc : (ckgenBody s).crc = s.crc := by simp only [ckgenBody, putCksum]
@[simp] theorem ckgenBody_revive : (ckgenBody s).revive = s.revive := by simp only [ckgenBody, putCksum]
@[simp] theorem ckgenBody_gen : (ckgenBody s).gen = s.gen := by simp only [ckgenBody, putCksum]
@[simp] theorem ckgenBody_br : (ckgenBody s).br = s.br := by simp only [ckgenBody, putCksum]
@[simp] theorem ckgenBody_bw : (ckgenBody s).bw = s.bw := by simp only [ckgenBody, putCksum]
@[simp] theorem ckgenBody_txt : (ckgenBody s).txt = s.txt := by simp only [ckgenBody, putCksum]
@[simp] theorem ckgenBody_sym : (ckgenBody s).sym = s.sym := by simp only [ckgenBody, putCksum]
@[simp] theorem ckgenBody_prm : (ckgenBody s).prm = s.prm := by simp only [ckgenBody, putCksum]
@[simp] theorem ckgenBody_out : (ckgenBody s).out = s.out := by simp only [ckgenBody, putCksum]
@[simp] theorem ckgenBody_cfg : (ckgenBody s).cfg = s.cfg := by simp only [ckgenBody, putCksum]
@[simp] theorem ckgenBody_host : (ckgenBody s).host = s.host := by simp only [ckgenBody, putCksum]
@[simp] theorem ckgenBody_rdata : (ckgenBody s).rdata = s.rdata := by simp only [ckgenBody, putCksum]
@[simp] theorem ckgenBody_cksum : (ckgenBody s).cksum = frameChk s.frm := rfl
@[simp] theorem ckgenBody_res : (ckgenBody s).res = (frameChk s.frm).setWidth 32 := rfl
@[simp] theorem ckgenBody_status : (ckgenBody s).status = s.status.compared true := rfl
@[simp] theorem ckgenBody_frm : (ckgenBody s).frm = s.frm.set (0 : Fin 23) (frameChk s.frm) := rfl

/-! ### crcsymBody -/

@[simp] theorem crcsymBody_status : (crcsymBody s).status = s.status := by simp only [crcsymBody]
@[simp] theorem crcsymBody_opr : (crcsymBody s).opr = s.opr := by simp only [crcsymBody]
@[simp] theorem crcsymBody_txtlen : (crcsymBody s).txtlen = s.txtlen := by simp only [crcsymBody]
@[simp] theorem crcsymBody_outlen : (crcsymBody s).outlen = s.outlen := by simp only [crcsymBody]
@[simp] theorem crcsymBody_cksum : (crcsymBody s).cksum = s.cksum := by simp only [crcsymBody]
@[simp] theorem crcsymBody_gen : (crcsymBody s).gen = s.gen := by simp only [crcsymBody]
@[simp] theorem crcsymBody_br : (crcsymBody s).br = s.br := by simp only [crcsymBody]
@[simp] theorem crcsymBody_bw : (crcsymBody s).bw = s.bw := by simp only [crcsymBody]
@[simp] theorem crcsymBody_txt : (crcsymBody s).txt = s.txt := by simp only [crcsymBody]
@[simp] theorem crcsymBody_sym : (crcsymBody s).sym = s.sym := by simp only [crcsymBody]
@[simp] theorem crcsymBody_prm : (crcsymBody s).prm = s.prm := by simp only [crcsymBody]
@[simp] theorem crcsymBody_frm : (crcsymBody s).frm = s.frm := by simp only [crcsymBody]
@[simp] theorem crcsymBody_out : (crcsymBody s).out = s.out := by simp only [crcsymBody]
@[simp] theorem crcsymBody_cfg : (crcsymBody s).cfg = s.cfg := by simp only [crcsymBody]
@[simp] theorem crcsymBody_host : (crcsymBody s).host = s.host := by simp only [crcsymBody]
@[simp] theorem crcsymBody_rdata : (crcsymBody s).rdata = s.rdata := by simp only [crcsymBody]
@[simp] theorem crcsymBody_crc : (crcsymBody s).crc = symCrc s.cfg s.sym := rfl

/-! ### obfuscate -/

@[simp] theorem obfuscate_res : (obfuscate f s).res = s.res := by simp only [obfuscate, seedBody]
@[simp] theorem obfuscate_opr : (obfuscate f s).opr = s.opr := by simp only [obfuscate, seedBody]
@[simp] theorem obfuscate_txtlen : (obfuscate f s).txtlen = s.txtlen := by simp only [obfuscate, seedBody]
@[simp] theorem obfuscate_outlen : (obfuscate f s).outlen = s.outlen := by simp only [obfuscate, seedBody]
@[simp] theorem obfuscate_cksum : (obfuscate f s).cksum = s.cksum := by simp only [obfuscate, seedBody]
@[simp] theorem obfuscate_crc : (obfuscate f s).crc = s.crc := by simp only [obfuscate, seedBody]
@[simp] theorem obfuscate_revive : (obfuscate f s).revive = s.revive := by simp only [obfuscate, seedBody]
@[simp] theorem obfuscate_br : (obfuscate f s).br = s.br := by simp only [obfuscate, seedBody]
@[simp] theorem obfuscate_bw : (obfuscate f s).bw = s.bw := by simp only [obfuscate, seedBody]
@[simp] theorem obfuscate_txt : (obfuscate f s).txt = s.txt := by simp only [obfuscate, seedBody]
@[simp] theorem obfuscate_sym : (obfuscate f s).sym = s.sym := by simp only [obfuscate, seedBody]
@[simp] theorem obfuscate_prm : (obfuscate f s).prm = s.prm := by simp only [obfuscate, seedBody]
@[simp] theorem obfuscate_out : (obfuscate f s).out = s.out := by simp only [obfuscate, seedBody]
@[simp] theorem obfuscate_cfg : (obfuscate f s).cfg = s.cfg := by simp only [obfuscate, seedBody]
@[simp] theorem obfuscate_host : (obfuscate f s).host = s.host := by simp only [obfuscate, seedBody]
@[simp] theorem obfuscate_rdata : (obfuscate f s).rdata = s.rdata := by simp only [obfuscate, seedBody]
@[simp] theorem obfuscate_status : (obfuscate f s).status = s.status.seed := rfl

/-! ### takeBits -/

@[simp] theorem takeBits_status : (takeBits s nb b).status = s.status := by simp only [takeBits]
@[simp] theorem takeBits_opr : (takeBits s nb b).opr = s.opr := by simp only [takeBits]
@[simp] theorem takeBits_txtlen : (takeBits s nb b).txtlen = s.txtlen := by simp only [takeBits]
@[simp] theorem takeBits_outlen : (takeBits s nb b).outlen = s.outlen := by simp only [takeBits]
@[simp] theorem takeBits_cksum : (takeBits s nb b).cksum = s.cksum := by simp only [takeBits]
@[simp] theorem takeBits_crc : (takeBits s nb b).crc = s.crc := by simp only [takeBits]
@[simp] theorem takeBits_revive : (takeBits s nb b).revive = s.revive := by simp only [takeBits]
@[simp] theorem takeBits_gen : (takeBits s nb b).gen = s.gen := by simp only [takeBits]
@[simp] theorem takeBits_bw : (takeBits s nb b).bw = s.bw := by simp only [takeBits]
@[simp] theorem takeBits_txt : (takeBits s nb b).txt = s.txt := by simp only [takeBits]
@[simp] theorem takeBits_sym : (takeBits s nb b).sym = s.sym := by simp only [takeBits]
@[simp] theorem takeBits_prm : (takeBits s nb b).prm = s.prm := by simp only [takeBits]
@[simp] theorem takeBits_frm : (takeBits s nb b).frm = s.frm := by simp only [takeBits]
@[simp] theorem takeBits_out : (takeBits s nb b).out = s.out := by simp only [takeBits]
@[simp] theorem takeBits_cfg : (takeBits s nb b).cfg = s.cfg := by simp only [takeBits]
@[simp] theorem takeBits_host : (takeBits s nb b).host = s.host := by simp only [takeBits]
@[simp] theorem takeBits_rdata : (takeBits s nb b).rdata = s.rdata := by simp only [takeBits]

end Sys2Proof.Machine
end

