-- ==== Sys2Proof/Laws/State.lean ====
section
/-! SUPPORT. One lemma per field of State for each shared update: `raise`, `succeed`, `bufWrite`, and the frames of the bit
writer's updates `storeUnit`, `storeUnits`, `appendOpr`, `flushUnit`. -/

namespace Sys2Proof.Machine

/-! ### raise -/

section
variable (e : CmdError) (s : State)

@[simp] theorem raise_err : (raise e s).status.err = e.code := rfl
@[simp] theorem raise_ckdone : (raise e s).status.ckdone = s.status.ckdone := rfl
@[simp] theorem raise_ckok : (raise e s).status.ckok = s.status.ckok := rfl
@[simp] theorem raise_seeded : (raise e s).status.seeded = s.status.seeded := rfl
@[simp] theorem raise_sticky : (raise e s).status.sticky = true := rfl
@[simp] theorem raise_firsterr :
    (raise e s).status.firsterr = if s.status.sticky then s.status.firsterr else e.code := rfl
@[simp] theorem raise_res : (raise e s).res = e.info := rfl
@[simp] theorem raise_opr : (raise e s).opr = s.opr := rfl
@[simp] theorem raise_txtlen : (raise e s).txtlen = s.txtlen := rfl
@[simp] theorem raise_outlen : (raise e s).outlen = s.outlen := rfl
@[simp] theorem raise_cksum : (raise e s).cksum = s.cksum := rfl
@[simp] theorem raise_crc : (raise e s).crc = s.crc := rfl
@[simp] theorem raise_revive : (raise e s).revive = s.revive := rfl
@[simp] theorem raise_gen : (raise e s).gen = s.gen := rfl
@[simp] theorem raise_br : (raise e s).br = s.br := rfl
@[simp] theorem raise_bw : (raise e s).bw = s.bw := rfl
@[simp] theorem raise_txt : (raise e s).txt = s.txt := rfl
@[simp] theorem raise_sym : (raise e s).sym = s.sym := rfl
@[simp] theorem raise_prm : (raise e s).prm = s.prm := rfl
@[simp] theorem raise_frm : (raise e s).frm = s.frm := rfl
@[simp] theorem raise_out : (raise e s).out = s.out := rfl
@[simp] theorem raise_cfg : (raise e s).cfg = s.cfg := rfl
@[simp] theorem raise_host : (raise e s).host = s.host := rfl
@[simp] theorem raise_rdata : (raise e s).rdata = s.rdata := rfl

end

/-! ### succeed -/

section
variable (s : State)

@[simp] theorem succeed_err : (succeed s).status.err = .ok := rfl
@[simp] theorem succeed_ckdone : (succeed s).status.ckdone = s.status.ckdone := rfl
@[simp] theorem succeed_ckok : (succeed s).status.ckok = s.status.ckok := rfl
@[simp] theorem succeed_seeded : (succeed s).status.seeded = s.status.seeded := rfl
@[simp] theorem succeed_sticky : (succeed s).status.sticky = s.status.sticky := rfl
@[simp] theorem succeed_firsterr : (succeed s).status.firsterr = s.status.firsterr := rfl
@[simp] theorem succeed_res : (succeed s).res = s.res := rfl
@[simp] theorem succeed_opr : (succeed s).opr = s.opr := rfl
@[simp] theorem succeed_txtlen : (succeed s).txtlen = s.txtlen := rfl
@[simp] theorem succeed_outlen : (succeed s).outlen = s.outlen := rfl
@[simp] theorem succeed_cksum : (succeed s).cksum = s.cksum := rfl
@[simp] theorem succeed_crc : (succeed s).crc = s.crc := rfl
@[simp] theorem succeed_revive : (succeed s).revive = s.revive := rfl
@[simp] theorem succeed_gen : (succeed s).gen = s.gen := rfl
@[simp] theorem succeed_br : (succeed s).br = s.br := rfl
@[simp] theorem succeed_bw : (succeed s).bw = s.bw := rfl
@[simp] theorem succeed_txt : (succeed s).txt = s.txt := rfl
@[simp] theorem succeed_sym : (succeed s).sym = s.sym := rfl
@[simp] theorem succeed_prm : (succeed s).prm = s.prm := rfl
@[simp] theorem succeed_frm : (succeed s).frm = s.frm := rfl
@[simp] theorem succeed_out : (succeed s).out = s.out := rfl
@[simp] theorem succeed_cfg : (succeed s).cfg = s.cfg := rfl
@[simp] theorem succeed_host : (succeed s).host = s.host := rfl
@[simp] theorem succeed_rdata : (succeed s).rdata = s.rdata := rfl

end

/-! ### bufWrite: only the selected buffer changes -/

section
variable (s : State) (b : BufSel) (i : Nat) (v : Byte)

@[simp] theorem bufWrite_status : (bufWrite s b i v).status = s.status := by cases b <;> rfl
@[simp] theorem bufWrite_res : (bufWrite s b i v).res = s.res := by cases b <;> rfl
@[simp] theorem bufWrite_opr : (bufWrite s b i v).opr = s.opr := by cases b <;> rfl
@[simp] theorem bufWrite_txtlen : (bufWrite s b i v).txtlen = s.txtlen := by cases b <;> rfl
@[simp] theorem bufWrite_outlen : (bufWrite s b i v).outlen = s.outlen := by cases b <;> rfl
@[simp] theorem bufWrite_cksum : (bufWrite s b i v).cksum = s.cksum := by cases b <;> rfl
@[simp] theorem bufWrite_crc : (bufWrite s b i v).crc = s.crc := by cases b <;> rfl
@[simp] theorem bufWrite_revive : (bufWrite s b i v).revive = s.revive := by cases b <;> rfl
@[simp] theorem bufWrite_gen : (bufWrite s b i v).gen = s.gen := by cases b <;> rfl
@[simp] theorem bufWrite_br : (bufWrite s b i v).br = s.br := by cases b <;> rfl
@[simp] theorem bufWrite_bw : (bufWrite s b i v).bw = s.bw := by cases b <;> rfl
@[simp] theorem bufWrite_txt : (bufWrite s b i v).txt = s.txt := by cases b <;> rfl
@[simp] theorem bufWrite_sym : (bufWrite s b i v).sym = s.sym := by cases b <;> rfl
@[simp] theorem bufWrite_out : (bufWrite s b i v).out = s.out := by cases b <;> rfl
@[simp] theorem bufWrite_cfg : (bufWrite s b i v).cfg = s.cfg := by cases b <;> rfl
@[simp] theorem bufWrite_host : (bufWrite s b i v).host = s.host := by cases b <;> rfl
@[simp] theorem bufWrite_rdata : (bufWrite s b i v).rdata = s.rdata := by cases b <;> rfl
@[simp] theorem bufWrite_prm :
    (bufWrite s .prm i v).prm = s.prm.setIfInBounds i (v.setWidth 6) := rfl
@[simp] theorem bufWrite_frm : (bufWrite s .frm i v).frm = s.frm.setIfInBounds i v := rfl
@[simp] theorem bufWrite_prm_frm : (bufWrite s .prm i v).frm = s.frm := rfl
@[simp] theorem bufWrite_frm_prm : (bufWrite s .frm i v).prm = s.prm := rfl

end

/-! ### storeUnit, storeUnits, appendOpr, flushUnit -/

section
variable (s : State) (k nb : Nat)

@[simp] theorem storeUnit_bw :
    (storeUnit s).bw =
      { s.bw with
        idx := s.bw.idx + 1#8
        acc := s.bw.acc >>> s.bw.w.toNat
        n := BitVec.ofNat 6 (s.bw.n.toNat - s.bw.w.toNat) } := rfl
@[simp] theorem appendOpr_bw :
    (appendOpr s nb).bw =
      { s.bw with
        acc := s.bw.acc ||| (s.opr.setWidth 64 <<< s.bw.n.toNat)
        n := BitVec.ofNat 6 (s.bw.n.toNat + nb) } := rfl
@[simp] theorem appendOpr_prm : (appendOpr s nb).prm = s.prm := rfl
@[simp] theorem appendOpr_frm : (appendOpr s nb).frm = s.frm := rfl
@[simp] theorem flushUnit_bw :
    (flushUnit s).bw = { s.bw with idx := s.bw.idx + 1#8, acc := 0#64, n := 0#6 } := rfl

/-- A store of a unit changes PRM, FRM and BW only. -/
theorem storeUnit_frame :
    storeUnit s = { s with prm := (storeUnit s).prm, frm := (storeUnit s).frm, bw := (storeUnit s).bw } := by
  unfold storeUnit bufWrite; cases s.bw.buf <;> rfl

/-- A flush changes PRM, FRM and BW only. -/
theorem flushUnit_frame :
    flushUnit s = { s with prm := (flushUnit s).prm, frm := (flushUnit s).frm, bw := (flushUnit s).bw } := by
  unfold flushUnit bufWrite; cases s.bw.buf <;> rfl

/-- Stores of units change PRM, FRM and BW only. -/
theorem storeUnits_frame :
    storeUnits k s =
      { s with prm := (storeUnits k s).prm, frm := (storeUnits k s).frm, bw := (storeUnits k s).bw } := by
  induction k generalizing s with
  | zero => rfl
  | succ k ih =>
    rw [storeUnits, ih (storeUnit s)]
    generalize storeUnits k (storeUnit s) = t
    rw [storeUnit_frame]

end

end Sys2Proof.Machine
end

