-- ==== Sys2Proof/Laws/Commands.lean ====
section
/-! SUPPORT. Every command ends through `complete`: `exec` as `complete` of the command's result, its two outcomes, and
the frames of the shared bodies. -/

namespace Sys2Proof.Machine

/-- The result of each command before `complete` ends it, gathered from the meanings. -/
def commandResult (i : Instr) (s : State) : CmdResult :=
  match i with
  | .nop => .ok s
  | .parse => parseBody (encode .parse) s
  | .render => .ok (renderBody s)
  | .symdec t0 t1 =>
    match lookup s.cfg (t0, t1) with
    | none => .error { code := .invalidSymbol, info := 0#32 }
    | some c => .ok { s with res := c.setWidth 32 }
  | .symenc code => .ok { s with res := tokenWord (tokenOf s.cfg code) }
  | .papply => .ok (papplyBody s)
  | .punapply => .ok (punapplyBody s)
  | .pack68 => .ok (pack68Body s)
  | .pack86 => .ok (pack86Body s)
  | .pseedf => .ok (seedBody (frameSeed s.frm) s)
  | .pseedi seed => .ok (seedBody seed s)
  | .pnext =>
    if !s.status.seeded then .error { code := .notSeeded, info := encode .pnext }
    else .ok { s with res := (nextGen s.gen).1, gen := (nextGen s.gen).2 }
  | .obfdec => .ok (obfdecBody s)
  | .obfenc => .ok (obfencBody s)
  | .cksum start len =>
    if cksumWindowLegal start len then .ok (putCksum (chk (frameWindow s.frm start.toNat len.toNat)) s)
    else .error (illegalOperand (.cksum start len))
  | .ckchk => .ok (ckchkBody s)
  | .ckgen => .ok (ckgenBody s)
  | .crcinit => .ok { s with crc := s.cfg.crcInit }
  | .crcbyte b => .ok { s with crc := crcUpd s.cfg s.crc b }
  | .crcfin => .ok { s with res := s.crc ^^^ s.cfg.crcXorOut }
  | .crcsym => .ok (crcsymBody s)
  | .brinit w buf start len =>
    if windowLegal w buf start len then .ok { s with br := openStream w buf start len }
    else .error (illegalOperand (.brinit w buf start len))
  | .brread nb =>
    if !bitCountLegal nb then .error (illegalOperand (.brread nb))
    else if !s.br.act then .error { code := .notInit, info := encode (.brread nb) }
    else .ok (takeBits s nb.toNat (filled s nb.toNat))
  | .brmore =>
    if !s.br.act then .error { code := .notInit, info := encode .brmore }
    else .ok { s with res := if s.br.hasMore then 1#32 else 0#32 }
  | .bwinit w buf start len =>
    if windowLegal w buf start len then .ok { s with bw := openStream w buf start len }
    else .error (illegalOperand (.bwinit w buf start len))
  | .bwwrite nb =>
    if !bitCountLegal nb then .error (illegalOperand (.bwwrite nb))
    else if !s.bw.act then .error { code := .notInit, info := encode (.bwwrite nb) }
    else if s.opr.toNat ≥ 2 ^ nb.toNat then .error { code := .fieldRange, info := encode (.bwwrite nb) }
    else if s.bw.idx.toNat + unitsCompleted s.bw nb.toNat > s.bw.stop.toNat then
      .error { code := .bufOverflow, info := encode (.bwwrite nb) }
    else .ok (storeUnits (unitsCompleted s.bw nb.toNat) (appendOpr s nb.toNat))
  | .bwflush =>
    if !s.bw.act then .error { code := .notInit, info := encode .bwflush }
    else if s.bw.n.toNat > 0 then
      if s.bw.idx.toNat ≥ s.bw.stop.toNat then .error { code := .bufOverflow, info := encode .bwflush }
      else .ok (flushUnit s)
    else .ok s
  | .decodePw => decodeBody (encode .decodePw) s
  | .encodePw g => .ok (encodeBody g s)
  | .clrerr => .ok { s with status := s.status.clearSticky }

/-- Every command ends through `complete` on the state before it. -/
theorem exec_eq_complete (i : Instr) (s : State) : exec i s = complete s (commandResult i s) := by
  cases i <;> rfl

/-- A command whose result is a state answers it with ERR = 0. -/
theorem exec_of_ok {i : Instr} {s t : State} (h : commandResult i s = .ok t) : exec i s = .next (succeed t) := by
  rw [exec_eq_complete, h]; rfl

/-- A command whose result is an error makes the error effects on the state before it. -/
theorem exec_of_error {i : Instr} {s : State} {e : CmdError} (h : commandResult i s = .error e) :
    exec i s = .next (raise e s) := by
  rw [exec_eq_complete, h]; rfl

/-- The two ways in which a command answers a next state. -/
theorem exec_next {i : Instr} {s u : State} (h : exec i s = .next u) :
    (∃ t, commandResult i s = .ok t ∧ u = succeed t) ∨
      ∃ e, commandResult i s = .error e ∧ u = raise e s := by
  cases hr : commandResult i s with
  | ok t => rw [exec_of_ok hr] at h; cases h; exact .inl ⟨t, rfl, rfl⟩
  | error e => rw [exec_of_error hr] at h; cases h; exact .inr ⟨e, rfl, rfl⟩

/-- A command never faults and is never refused. -/
theorem exec_total (i : Instr) (s : State) : ∃ t, exec i s = .next t := by
  cases hr : commandResult i s with
  | ok t => exact ⟨_, exec_of_ok hr⟩
  | error e => exact ⟨_, exec_of_error hr⟩

/-- Commands in a row: the first succeeds. -/
theorem execAll_cons_of_ok {i : Instr} {s t : State} {rest : List Instr} (h : commandResult i s = .ok t) :
    execAll (i :: rest) s = execAll rest (succeed t) := by
  simp [execAll, exec_of_ok h]

/-- One command that succeeds. -/
theorem execAll_one {i : Instr} {s t : State} (h : commandResult i s = .ok t) :
    execAll [i] s = .next (succeed t) := by
  rw [execAll_cons_of_ok h]; rfl

/-- The error effects, field by field. -/
theorem raise_eq_failed (e : CmdError) (s : State) : raise e s = failed e.code e.info s := by
  cases h : s.status.sticky <;> simp [raise, failed, h]

/-! ### Frames of the shared bodies -/

/-- RENDER writes OUT and OUTLEN only. -/
theorem renderBody_frame (s : State) : renderBody s = { s with out := (renderBody s).out, outlen := 65#7 } := rfl

/-- PAPPLY writes PRM only. -/
theorem papplyBody_frame (s : State) : papplyBody s = { s with prm := (papplyBody s).prm } := rfl

/-- PUNAPPLY writes SYM only. -/
theorem punapplyBody_frame (s : State) : punapplyBody s = { s with sym := (punapplyBody s).sym } := rfl

/-- PACK68 writes FRM only. -/
theorem pack68Body_frame (s : State) : pack68Body s = { s with frm := (pack68Body s).frm } := rfl

/-- PACK86 writes PRM only. -/
theorem pack86Body_frame (s : State) : pack86Body s = { s with prm := (pack86Body s).prm } := rfl

/-- CKCHK writes CKSUM, RES, CKDONE and CKOK only. -/
theorem ckchkBody_frame (s : State) :
    ckchkBody s =
      { s with
        cksum := frameChk s.frm, res := (frameChk s.frm).setWidth 32
        status := s.status.compared (frameChk s.frm == s.frm[(0 : Fin 23)]) } := rfl

/-- CKGEN writes FRM[0], CKSUM, RES, CKDONE and CKOK only. -/
theorem ckgenBody_frame (s : State) :
    ckgenBody s =
      { s with
        frm := s.frm.set (0 : Fin 23) (frameChk s.frm), cksum := frameChk s.frm
        res := (frameChk s.frm).setWidth 32, status := s.status.compared true } := rfl

/-- CRCSYM writes CRC, RES and REVIVE only. -/
theorem crcsymBody_frame (s : State) :
    crcsymBody s =
      { s with crc := (crcsymBody s).crc, res := (crcsymBody s).res, revive := (crcsymBody s).revive } := rfl

/-- The obfuscation writes FRM, the generator and SEEDED only. -/
theorem obfuscate_frame (f : Byte → Word → Byte) (s : State) :
    obfuscate f s =
      { s with gen := (obfuscate f s).gen, frm := (obfuscate f s).frm, status := s.status.seed } := rfl

/-- A successful PARSE writes SYM only. -/
theorem parseBody_ok {w : Word} {s t : State} (h : parseBody w s = .ok t) : ∃ codes, t = { s with sym := codes } := by
  unfold parseBody at h
  (repeat' split at h) <;> cases h
  exact ⟨_, rfl⟩

/-- What the steps of DECODE after PARSE write. -/
theorem decodeTail_frame (s : State) :
    ∃ (crc : Word) (revive : BitVec 30) (prm : Vector Code 31) (frm : Vector Byte 23) (gen : Gen) (ok : Bool)
      (c : Byte),
      decodeTail s =
        { s with
          crc := crc, revive := revive, prm := prm, frm := frm, gen := gen, cksum := c, res := c.setWidth 32
          status := s.status.seed.compared ok } := by
  unfold decodeTail
  generalize hr : crcsymBody s = r
  have e1 : r = { s with crc := r.crc, res := r.res, revive := r.revive } := by rw [← hr]; rfl
  generalize hq : papplyBody r = q
  have e0 : q = { r with prm := q.prm } := by subst hq; rfl
  generalize hp : pack68Body q = p
  have e2 : p = { q with frm := p.frm } := by subst hp; rfl
  generalize ho : obfdecBody p = o
  have e3 : o = { p with gen := o.gen, frm := o.frm, status := p.status.seed } := by
    subst ho; exact obfuscate_frame subKey p
  generalize hc : ckchkBody o = c
  have e4 : c = { o with cksum := c.cksum, res := c.cksum.setWidth 32,
                         status := o.status.compared (frameChk o.frm == o.frm[(0 : Fin 23)]) } := by
    subst hc; rfl
  refine ⟨r.crc, r.revive, q.prm, o.frm, o.gen, frameChk o.frm == o.frm[(0 : Fin 23)], c.cksum, ?_⟩
  rw [e4, e3, e2, e0, e1]

/-- What ENCODE writes. -/
theorem encodeBody_frame (g : Bool) (s : State) :
    ∃ (frm : Vector Byte 23) (prm : Vector Code 31) (sym : Vector Code 30) (out : Vector Byte 65) (gen : Gen),
      encodeBody g s =
        { s with
          frm := frm, prm := prm, sym := sym, out := out, outlen := 65#7, gen := gen
          res := frm[(0 : Fin 23)].setWidth 32
          cksum := if g then frameChk s.frm else s.cksum
          status := (if g then s.status.compared true else s.status).seed } := by
  unfold encodeBody
  generalize hk : (if g then ckgenBody s else s) = k
  have e1 : k = { s with frm := k.frm, cksum := if g then frameChk s.frm else s.cksum,
                         res := k.res, status := if g then s.status.compared true else s.status } := by
    rw [← hk]; cases g <;> rfl
  generalize ho : obfencBody k = o
  have e2 : o = { k with gen := o.gen, frm := o.frm, status := k.status.seed } := by
    subst ho; exact obfuscate_frame addKey k
  generalize hp : pack86Body o = p
  have e3 : p = { o with prm := p.prm } := by rw [← hp]; rfl
  generalize hu : punapplyBody p = u
  have e4 : u = { p with sym := u.sym } := by rw [← hu]; rfl
  generalize hn : renderBody u = n
  have e5 : n = { u with out := n.out, outlen := 65#7 } := by rw [← hn]; rfl
  refine ⟨o.frm, p.prm, u.sym, n.out, o.gen, ?_⟩
  rw [e5, e4, e3, e2, e1]

end Sys2Proof.Machine
end

