-- ==== Sys2Proof/Laws/Decode.lean ====
section
/-! SUPPORT. What the decoder answers, said once: opcode lookup, MATCH and MASK, and the fields of an encoded command. -/

namespace Sys2Proof

theorem opcode_ofByte_byte (op : Opcode) : Opcode.ofByte op.byte = some op := by cases op <;> decide

theorem opcode_byte_of_ofByte {b : Byte} {op : Opcode} (h : Opcode.ofByte b = some op) : op.byte = b := by
  have := List.find?_some h
  simpa using this

@[simp] theorem opcode_assemble (op : Opcode) (w : Word) : (op.assemble w).opcode = op := by cases op <;> rfl

/-- A word with an opcode's byte and no reserved bit set is that opcode's command. -/
theorem decode_of_match {w : Word} {op : Opcode} (h : w.extractLsb' 0 8 = op.byte)
    (hm : w &&& op.mask = op.matchWord) : decode w = .ok (op.assemble w) := by
  simp [decode, h, opcode_ofByte_byte, hm]

/-- Everything a successful decoding says of its word. -/
theorem decode_ok {w : Word} {i : Instr} (h : decode w = .ok i) :
    ∃ op : Opcode, w.extractLsb' 0 8 = op.byte ∧ w &&& op.mask = op.matchWord ∧ i = op.assemble w := by
  unfold decode at h
  split at h
  · cases h
  · rename_i op ho
    split at h
    · rename_i hm
      exact ⟨op, (opcode_byte_of_ofByte ho).symm, hm, by cases h; rfl⟩
    · cases h

/-- The opcode stands in the low byte of an encoded command. -/
theorem encode_opcode_byte (i : Instr) : (encode i).extractLsb' 0 8 = i.opcode.byte := by
  cases i <;> simp [encode, Instr.opcode, Opcode.byte, Instr.operandBits, place] <;>
    (ext k hk; interval_cases k <;> simp)

theorem bufSel_ofBit_bit (b : Bool) : (BufSel.ofBit b).bit = BitVec.ofBool b := by cases b <;> rfl

theorem and_eq_getLsbD {w m v : Word} (h : w &&& m = v) (k : Nat) :
    (w.getLsbD k && m.getLsbD k) = v.getLsbD k := by
  rw [← h]; simp

/-- A word that matches a row of the opcode map has that row's opcode. -/
theorem opcode_byte_of_match {w : Word} {op : Opcode} (hm : w &&& op.mask = op.matchWord) :
    w.extractLsb' 0 8 = op.byte := by
  have g := and_eq_getLsbD hm
  cases op <;>
    (ext k hk; have := g k; interval_cases k <;> simpa [Opcode.mask, Opcode.matchWord, Opcode.byte] using this)

end Sys2Proof
end

