-- ==== Sys2Proof/Laws/Obfuscator.lean ====
section
/-! SUPPORT. The generator's shared operations, said once on integers: FIX, a difference of two elements, one keystream value,
and the bound that seeding and every step keep (44_obfuscator.md R178). -/

namespace Sys2Proof.Machine

theorem toInt_of_lt {v : Word} (h : v.toNat < 0x7FFFFFFF) : v.toInt = v.toNat := by
  rw [BitVec.toInt_eq_toNat_of_lt]; omega

/-- The sign fill of FIX (R171). -/
theorem sshiftRight_31 (t : Word) : t.sshiftRight 31 = if t.toInt < 0 then 0xFFFFFFFF#32 else 0#32 := by
  have h1 := t.toInt_lt
  have h2 := t.le_toInt
  apply BitVec.eq_of_toInt_eq
  rw [BitVec.toInt_sshiftRight, Int.shiftRight_eq_div_pow]
  split
  · rw [show (0xFFFFFFFF#32).toInt = -1 by decide]; omega
  · rw [show (0#32).toInt = 0 by decide]; omega

/-- FIX on the differences that the generator forms (R171). -/
theorem fix_spec {t : Word} (h1 : -0x7FFFFFFF < t.toInt) (h2 : t.toInt < 0x7FFFFFFF) :
    (fix t).toInt = (if t.toInt < 0 then t.toInt + 0x7FFFFFFF else t.toInt) ∧ (fix t).toNat < 0x7FFFFFFF := by
  unfold fix
  rw [sshiftRight_31]
  have := BitVec.toInt_eq_toNat_cond t
  have ht := t.isLt
  split
  · have e : (0xFFFFFFFF#32 &&& prngMbig) = 0x7FFFFFFF#32 := by decide
    have : (0x7FFFFFFF#32 + t).toNat = t.toNat - 0x80000001 := by
      rw [BitVec.toNat_add]; simp; split at this <;> omega
    rw [e, toInt_of_lt] <;> rw [this] <;> split at * <;> omega
  · simp only [BitVec.zero_and, BitVec.zero_add]; refine ⟨trivial, ?_⟩
    split at this <;> omega

/-- A difference of two elements does not wrap (R171). -/
theorem sub_spec {a b : Word} (ha : a.toNat < 0x7FFFFFFF) (hb : b.toNat < 0x7FFFFFFF) :
    (a - b).toInt = a.toInt - b.toInt ∧ -0x7FFFFFFF < (a - b).toInt ∧ (a - b).toInt < 0x7FFFFFFF := by
  have : (a - b).toInt = a.toInt - b.toInt := by
    rw [BitVec.toInt_sub, toInt_of_lt ha, toInt_of_lt hb, Int.bmod_def]; split <;> omega
  refine ⟨this, ?_⟩
  rw [this, toInt_of_lt ha, toInt_of_lt hb]; omega

/-- A cursor moves on, 55 to 1 (R176). -/
theorem advance_val (c : Fin 56) : (advance c).val = c.val % 55 + 1 := by
  revert c; decide

/-- The correction of R176 is FIX. -/
theorem nextGen_value (g : Gen) : (nextGen g).1 = fix (g.st[advance g.c1] - g.st[advance g.c2]) := by
  unfold nextGen fix
  simp only
  generalize g.st[advance g.c1] - g.st[advance g.c2] = t
  rw [sshiftRight_31, show t.slt 0#32 = decide (t.toInt < 0) by simp [BitVec.slt]]
  by_cases h : t.toInt < 0
  · simp only [h, decide_true, if_true]
    rw [show (0xFFFFFFFF#32 &&& prngMbig) = prngMbig by decide, BitVec.add_comm]
  · simp [h]

/-- A keystream value as an integer, and its bound (R176, R178). -/
theorem nextGen_spec {g : Gen} (h : g.Inv true) :
    (nextGen g).1.toInt =
      (if g.st[advance g.c1].toInt - g.st[advance g.c2].toInt < 0 then
        g.st[advance g.c1].toInt - g.st[advance g.c2].toInt + 0x7FFFFFFF
      else g.st[advance g.c1].toInt - g.st[advance g.c2].toInt) ∧
      (nextGen g).1.toNat < 0x7FFFFFFF := by
  have h1 := h.bounded rfl (advance g.c1)
  have h2 := h.bounded rfl (advance g.c2)
  obtain ⟨s1, s2, s3⟩ := sub_spec h1 h2
  obtain ⟨f1, f2⟩ := fix_spec s2 s3
  rw [nextGen_value, f1, s1]
  exact ⟨rfl, f2⟩

/-- A bounded element stored in a bounded array. -/
theorem bounded_set {st : Vector Word 56} (h : ∀ i : Fin 56, st[i].toNat < 0x7FFFFFFF) (j : Fin 56) {x : Word}
    (hx : x.toNat < 0x7FFFFFFF) (i : Fin 56) : (st.set j x)[i].toNat < 0x7FFFFFFF := by
  rw [Fin.getElem_fin, Vector.getElem_set]
  split
  · exact hx
  · exact h i

/-- Drawing a value keeps what seeding established. -/
theorem nextGen_inv {g : Gen} (h : g.Inv true) : (nextGen g).2.Inv true := by
  obtain ⟨-, hn⟩ := nextGen_spec h
  refine ⟨fun h' => Bool.noConfusion h', fun _ => bounded_set (h.bounded rfl) _ hn, fun _ => .inr ?_⟩
  have := h.cursors rfl
  show 1 ≤ (advance g.c1).val ∧ 1 ≤ (advance g.c2).val ∧
      (advance g.c2).val % 55 = ((advance g.c1).val + 31) % 55
  rw [advance_val, advance_val]
  rcases this with ⟨h1, h2⟩ | h
  · rw [h1, h2]; decide
  · omega

/-- One step of the seeding loop keeps the bound. -/
theorem seedStep_bounded {a : Vector Word 56 × Word × Word} (x : Nat) (h : ∀ i : Fin 56, a.1[i].toNat < 0x7FFFFFFF)
    (hs : a.2.1.toNat < 0x7FFFFFFF) (hv : a.2.2.toNat < 0x7FFFFFFF) :
    (∀ i : Fin 56, (seedStep a x).1[i].toNat < 0x7FFFFFFF) ∧ (seedStep a x).2.1.toNat < 0x7FFFFFFF ∧
      (seedStep a x).2.2.toNat < 0x7FFFFFFF := by
  obtain ⟨s1, s2, s3⟩ := sub_spec hs hv
  exact ⟨bounded_set h _ hv, hv, (fix_spec s2 s3).2⟩

/-- One warm-up step keeps the bound. -/
theorem warmStep_bounded {st : Vector Word 56} (x : Nat) (h : ∀ i : Fin 56, st[i].toNat < 0x7FFFFFFF) (i : Fin 56) :
    (warmStep st x)[i].toNat < 0x7FFFFFFF := by
  obtain ⟨s1, s2, s3⟩ := sub_spec (h (stIndex x)) (h (stIndex ((x + 30) % 55 + 1)))
  exact bounded_set h _ (fix_spec s2 s3).2 i

end Sys2Proof.Machine
end

