-- ==== Sys2Proof/Laws/Operands.lean ====
section
/-! SUPPORT. The operand checks of the commands are the well-formedness checks on the command alone. -/

namespace Sys2Proof.Machine

theorem windowLegal_eq (w : BitVec 4) (buf : BufSel) (start len : Byte) :
    windowLegal w buf start len = windowWellFormed w buf start len := by
  cases buf <;> grind [windowLegal, windowWellFormed, bufSize, BufSel.length]

theorem bitCountLegal_eq (nb : Byte) : bitCountLegal nb = bitCountWellFormed nb := by
  unfold bitCountLegal bitCountWellFormed
  split_ifs <;> simp_all <;> omega

theorem cksumWindowLegal_eq (start len : Byte) : cksumWindowLegal start len = cksumWellFormed start len := by
  unfold cksumWindowLegal cksumWellFormed
  split_ifs <;> simp_all <;> omega

end Sys2Proof.Machine
end

