-- ==== Sys2Proof/Laws/PerInstr.lean ====
section
/-! SUPPORT. Families of statements made per command of the opcode table. -/

namespace Sys2Proof.Laws

/-- The word of a command matches its row of 30_encoding.md R97: it sets no reserved bit. -/
def EncodedMatch.Statement (i : Instr) : Prop := encode i &&& i.opcode.mask = i.opcode.matchWord

/-- A command word's bits decide `EncodedMatch`. -/
theorem encodedMatch_of_bits {i : Instr}
    (h : ∀ k, k < 32 → ((encode i).getLsbD k && i.opcode.mask.getLsbD k) = i.opcode.matchWord.getLsbD k) :
    EncodedMatch.Statement i := by
  unfold EncodedMatch.Statement
  apply BitVec.eq_of_getLsbD_eq
  intro k hk
  rw [BitVec.getLsbD_and]
  exact h k hk

theorem EncodedMatch.nop : EncodedMatch.Statement .nop := by unfold EncodedMatch.Statement; decide
theorem EncodedMatch.parse : EncodedMatch.Statement .parse := by unfold EncodedMatch.Statement; decide
theorem EncodedMatch.render : EncodedMatch.Statement .render := by unfold EncodedMatch.Statement; decide
theorem EncodedMatch.papply : EncodedMatch.Statement .papply := by unfold EncodedMatch.Statement; decide
theorem EncodedMatch.punapply : EncodedMatch.Statement .punapply := by unfold EncodedMatch.Statement; decide
theorem EncodedMatch.pack68 : EncodedMatch.Statement .pack68 := by unfold EncodedMatch.Statement; decide
theorem EncodedMatch.pack86 : EncodedMatch.Statement .pack86 := by unfold EncodedMatch.Statement; decide
theorem EncodedMatch.pseedf : EncodedMatch.Statement .pseedf := by unfold EncodedMatch.Statement; decide
theorem EncodedMatch.pnext : EncodedMatch.Statement .pnext := by unfold EncodedMatch.Statement; decide
theorem EncodedMatch.obfdec : EncodedMatch.Statement .obfdec := by unfold EncodedMatch.Statement; decide
theorem EncodedMatch.obfenc : EncodedMatch.Statement .obfenc := by unfold EncodedMatch.Statement; decide
theorem EncodedMatch.ckchk : EncodedMatch.Statement .ckchk := by unfold EncodedMatch.Statement; decide
theorem EncodedMatch.ckgen : EncodedMatch.Statement .ckgen := by unfold EncodedMatch.Statement; decide
theorem EncodedMatch.crcinit : EncodedMatch.Statement .crcinit := by unfold EncodedMatch.Statement; decide
theorem EncodedMatch.crcfin : EncodedMatch.Statement .crcfin := by unfold EncodedMatch.Statement; decide
theorem EncodedMatch.crcsym : EncodedMatch.Statement .crcsym := by unfold EncodedMatch.Statement; decide
theorem EncodedMatch.brmore : EncodedMatch.Statement .brmore := by unfold EncodedMatch.Statement; decide
theorem EncodedMatch.bwflush : EncodedMatch.Statement .bwflush := by unfold EncodedMatch.Statement; decide
theorem EncodedMatch.decodePw : EncodedMatch.Statement .decodePw := by unfold EncodedMatch.Statement; decide
theorem EncodedMatch.clrerr : EncodedMatch.Statement .clrerr := by unfold EncodedMatch.Statement; decide
theorem EncodedMatch.encodePw (g : Bool) : EncodedMatch.Statement (.encodePw g) := by
  unfold EncodedMatch.Statement; revert g; decide
theorem EncodedMatch.symenc (code : Code) : EncodedMatch.Statement (.symenc code) := by
  unfold EncodedMatch.Statement; revert code; decide
theorem EncodedMatch.crcbyte (b : Byte) : EncodedMatch.Statement (.crcbyte b) := by
  unfold EncodedMatch.Statement; revert b; decide
theorem EncodedMatch.brread (nb : Byte) : EncodedMatch.Statement (.brread nb) := by
  unfold EncodedMatch.Statement; revert nb; decide
theorem EncodedMatch.bwwrite (nb : Byte) : EncodedMatch.Statement (.bwwrite nb) := by
  unfold EncodedMatch.Statement; revert nb; decide

theorem EncodedMatch.symdec (t0 t1 : Byte) : EncodedMatch.Statement (.symdec t0 t1) :=
  encodedMatch_of_bits fun k hk => by
    interval_cases k <;>
      simp [encode, Instr.opcode, Opcode.byte, Instr.operandBits, place, Opcode.mask, Opcode.matchWord]

theorem EncodedMatch.pseedi (seed : BitVec 16) : EncodedMatch.Statement (.pseedi seed) :=
  encodedMatch_of_bits fun k hk => by
    interval_cases k <;>
      simp [encode, Instr.opcode, Opcode.byte, Instr.operandBits, place, Opcode.mask, Opcode.matchWord]

theorem EncodedMatch.cksum (start len : Byte) : EncodedMatch.Statement (.cksum start len) :=
  encodedMatch_of_bits fun k hk => by
    interval_cases k <;>
      simp [encode, Instr.opcode, Opcode.byte, Instr.operandBits, place, Opcode.mask, Opcode.matchWord]

theorem EncodedMatch.brinit (w : BitVec 4) (buf : BufSel) (start len : Byte) :
    EncodedMatch.Statement (.brinit w buf start len) :=
  encodedMatch_of_bits fun k hk => by
    interval_cases k <;>
      simp [encode, Instr.opcode, Opcode.byte, Instr.operandBits, place, Opcode.mask, Opcode.matchWord]

theorem EncodedMatch.bwinit (w : BitVec 4) (buf : BufSel) (start len : Byte) :
    EncodedMatch.Statement (.bwinit w buf start len) :=
  encodedMatch_of_bits fun k hk => by
    interval_cases k <;>
      simp [encode, Instr.opcode, Opcode.byte, Instr.operandBits, place, Opcode.mask, Opcode.matchWord]

end Sys2Proof.Laws
end

