-- ==== Sys2Proof/Laws/Port.lean ====
section
/-! SUPPORT. The register map of 20_memory.md R62 said once: each location is found at its address, and only there; and what
one host access does. -/

namespace Sys2Proof.Machine

theorem addrNat_lt (l : Loc) : l.addrNat < 0x2800 ∧ l.addrNat % 4 = 0 := by
  cases l <;> simp [Loc.addrNat] <;> omega

theorem windowIndex_of_eq {base n a : Nat} (i : Fin n) (h : a = base + 4 * i.val) :
    windowIndex base n a = some i := by
  simp [windowIndex, h]

theorem windowIndex_outside {base n a : Nat} (h : a < base ∨ base + 4 * n ≤ a) :
    windowIndex base n a = none := by
  unfold windowIndex; rw [dif_neg]; omega

theorem registerAt_none {a : Nat} (h : 0x30 ≤ a) : registerAt a = none := by
  unfold registerAt; split <;> first | omega | rfl

/-- Each location is found at its address. -/
theorem locOf_addr (l : Loc) : locOf (BitVec.ofNat 16 l.addrNat) = some l := by
  have h := addrNat_lt l
  have e : (BitVec.ofNat 16 l.addrNat).toNat = l.addrNat := by simp; omega
  unfold locOf; rw [e]
  cases l
  case txt i | sym i | prm i | frm i | out i | st i | perm i | symTable i | crcTable i =>
    have := i.isLt
    rw [registerAt_none (by simp only [Loc.addrNat]; omega)]
    simp only [elementAt, Loc.addrNat]
    repeat rw [windowIndex_outside (by omega)]
    rw [windowIndex_of_eq i rfl]
  all_goals rfl

theorem access_addr (l : Loc) : access (BitVec.ofNat 16 l.addrNat) 4 = .ok l := by
  have h := addrNat_lt l
  have e : (BitVec.ofNat 16 l.addrNat).toNat = l.addrNat := by simp; omega
  simp only [access, e, h.2, locOf_addr]; simp

theorem windowIndex_sound {base n a : Nat} {i : Fin n} (h : windowIndex base n a = some i) (h4 : a % 4 = 0)
    (hb : base % 4 = 0) : a = base + 4 * i.val := by
  unfold windowIndex at h
  split at h
  · cases h; simp; omega
  · cases h

/-- A location is found only at its address. -/
theorem locOf_sound {a : BitVec 16} {l : Loc} (h : locOf a = some l) (h4 : a.toNat % 4 = 0) :
    l.addrNat = a.toNat := by
  unfold locOf at h
  split at h
  · rename_i l' hr
    cases h
    unfold registerAt at hr
    split at hr <;> first | (cases hr; simp [Loc.addrNat, *]) | cases hr
  · unfold elementAt at h
    repeat' split at h
    all_goals first | (cases h; rename_i hw; rw [windowIndex_sound hw h4 (by decide)]; rfl) | cases h

/-- A legal access names its location. -/
theorem access_ok {a : BitVec 16} {width : Nat} {l : Loc} :
    access a width = .ok l ↔ width = 4 ∧ a.toNat % 4 = 0 ∧ l.addrNat = a.toNat := by
  constructor
  · intro h
    unfold access at h
    split at h
    · cases h
    · split at h
      · cases h
      · split at h
        · cases h
        · rename_i hw h4 _ l' hl
          cases h
          have h4' : a.toNat % 4 = 0 := by omega
          exact ⟨by omega, h4', locOf_sound hl h4'⟩
  · rintro ⟨rfl, _, h⟩
    have : a = BitVec.ofNat 16 l.addrNat := by rw [h]; simp
    rw [this, access_addr]

/-- A host read of a location. -/
theorem step_read (s : State) (rest : List HostEvent) (l : Loc) :
    step { s with host := .read (BitVec.ofNat 16 l.addrNat) 4 :: rest } =
      .next { s with host := rest, rdata := some (readLoc { s with host := rest } l) } := by
  simp only [step, serveNext, serve, access_addr]

/-- A host write of a location. -/
theorem step_write (s : State) (rest : List HostEvent) (v : Word) (l : Loc) :
    step { s with host := .write (BitVec.ofNat 16 l.addrNat) 4 v :: rest } =
      writeLoc v { s with host := rest, rdata := none } l := by
  simp only [step, serveNext, serve, access_addr]

/-- A write of a location other than CMD answers a next state. -/
theorem writeLoc_total (v : Word) (s : State) (l : Loc) (h : l ≠ .cmd) : ∃ t, writeLoc v s l = .next t := by
  cases l <;> first | exact absurd rfl h | exact ⟨_, rfl⟩

end Sys2Proof.Machine
end

