-- ==== Sys2Proof/Laws/Stream.lean ====
section
/-! SUPPORT. Streams of units (43_repacker.md R140, R141) bit by bit. -/

namespace Sys2Proof.Machine

/-- A stream of `n` units of width `f` has `n * f` bits. -/
theorem stream_lt {f : Nat} {u : List Nat} (h : ∀ x ∈ u, x < 2 ^ f) : stream f u < 2 ^ (f * u.length) := by
  induction u with
  | nil => simp [stream]
  | cons x r ih =>
    have hx := h x (by simp)
    have hr := ih fun y hy => h y (by simp [hy])
    rw [stream, Nat.shiftLeft_eq, List.length_cons, Nat.mul_add, Nat.pow_add, Nat.mul_one]
    have : (stream f r + 1) * 2 ^ f ≤ 2 ^ (f * r.length) * 2 ^ f := Nat.mul_le_mul_right _ hr
    rw [Nat.add_mul] at this
    omega

/-- Stream bit `f*j + b` is bit `b` of unit `j` (R140). -/
theorem testBit_stream {f : Nat} {u : List Nat} (h : ∀ x ∈ u, x < 2 ^ f) (j b : Nat) (hb : b < f) :
    (stream f u).testBit (f * j + b) = (u.getD j 0).testBit b := by
  induction u generalizing j with
  | nil => simp [stream]
  | cons x r ih =>
    have hx := h x (by simp)
    have hr := ih fun y hy => h y (by simp [hy])
    rw [stream, Nat.shiftLeft_eq, Nat.add_comm, Nat.mul_comm]
    cases j with
    | zero => rw [Nat.testBit_two_pow_mul_add _ hx]; simp [hb]
    | succ j =>
      rw [Nat.testBit_two_pow_mul_add _ hx]
      have : ¬ f * (j + 1) + b < f := by rw [Nat.mul_add]; omega
      rw [if_neg this, show f * (j + 1) + b - f = f * j + b by rw [Nat.mul_add]; omega, hr]
      simp

/-- Bit `b` of unit `m` of width `t` is stream bit `t*m + b` (R141). -/
theorem testBit_unitAt (s t m b : Nat) : (unitAt s t m).testBit b = (decide (b < t) && s.testBit (t * m + b)) := by
  rw [unitAt, Nat.testBit_mod_two_pow, Nat.testBit_shiftRight]

/-- Unit `m` of a repacked sequence. -/
theorem getD_repack {u : List Nat} {f t m : Nat} (h : m < (u.length * f + (t - 1)) / t) :
    (repack u f t).getD m 0 = unitAt (stream f u) t m := by
  simp [repack, List.getD_eq_getElem?_getD, h]

end Sys2Proof.Machine
end

