-- ==== Sys2Proof/Laws/Repacker.lean ====
section
/-! SUPPORT. The bit reader's and the bit writer's shared operations, said once on numbers: one unit loaded, the whole fill,
one unit stored, the units of a write. -/

namespace Sys2Proof.Machine

theorem and_mask8 (x : Byte) (w : Nat) (h : w ≤ 8) : (x &&& maskBits 8 w).toNat = x.toNat % 2^w := by
  have : 2^w ≤ 2^8 := Nat.pow_le_pow_right (by norm_num) h
  have p : 0 < 2^w := by positivity
  simp only [maskBits, BitVec.toNat_and, BitVec.toNat_ofNat]
  rw [Nat.mod_eq_of_lt (by omega), Nat.and_two_pow_sub_one_eq_mod]

theorem and_mask64 (x : BitVec 64) (w : Nat) (h : w ≤ 63) : (x &&& maskBits 64 w).toNat = x.toNat % 2^w := by
  have : 2^w ≤ 2^63 := Nat.pow_le_pow_right (by norm_num) h
  have p : 0 < 2^w := by positivity
  simp only [maskBits, BitVec.toNat_and, BitVec.toNat_ofNat]
  rw [Nat.mod_eq_of_lt (by omega), Nat.and_two_pow_sub_one_eq_mod]

theorem bufRead_toNat (s : State) (b : BufSel) (i : Nat) : (bufRead s b i).toNat = (bufferUnits s b).getD i 0 := by
  cases b
  · simp only [bufRead, bufferUnits, BitVec.toNat_setWidth, List.getD_eq_getElem?_getD, List.getElem?_map,
      Vector.getElem?_toList]
    cases h : s.prm[i]? with
    | none => simp
    | some c => simp; omega
  · simp only [bufRead, bufferUnits, List.getD_eq_getElem?_getD, List.getElem?_map, Vector.getElem?_toList]
    cases h : s.frm[i]? with
    | none => simp
    | some c => simp

theorem bufferUnits_length (s : State) (b : BufSel) : (bufferUnits s b).length = b.length := by
  cases b <;> simp [bufferUnits, BufSel.length]

theorem windowUnits_cons (s : State) (b : BufSel) (i k w : Nat) (h : i < b.length) :
    windowUnits s b i (k + 1) w = (bufferUnits s b).getD i 0 % 2 ^ w :: windowUnits s b (i + 1) k w := by
  unfold windowUnits
  rw [← bufferUnits_length s] at h
  rw [List.drop_eq_getElem_cons h, List.take_succ_cons, List.map_cons]
  simp [List.getD_eq_getElem?_getD, h]

/-- A record with a legal width, a window inside its buffer and no bit above its valid ones: what the loops of R149 and
R154 keep. -/
structure BitStream.Sound (b : BitStream) : Prop where
  width : 1 ≤ b.w.toNat ∧ b.w.toNat ≤ 8 ∧ (b.buf = .prm → b.w.toNat ≤ 6)
  window : b.idx.toNat ≤ b.stop.toNat ∧ b.stop.toNat ≤ b.buf.length
  acc : b.acc.toNat < 2 ^ b.n.toNat

theorem BitStream.Inv.sound {b : BitStream} (h : b.Inv) (ha : b.act = true) : b.Sound :=
  ⟨h.width ha, h.window ha, h.accBound⟩

theorem bufSel_length_le (b : BufSel) : b.length ≤ 31 := by cases b <;> decide

/-- One unit loaded, on numbers. -/
theorem loadUnit_toNat (s : State) (b : BitStream) (h : b.Sound) (hn : b.n.toNat ≤ 32)
    (hi : b.idx.toNat < b.stop.toNat) :
    (loadUnit s b).acc.toNat =
        b.acc.toNat + 2 ^ b.n.toNat * ((bufferUnits s b.buf).getD b.idx.toNat 0 % 2 ^ b.w.toNat) ∧
      (loadUnit s b).n.toNat = b.n.toNat + b.w.toNat ∧ (loadUnit s b).idx.toNat = b.idx.toNat + 1 := by
  obtain ⟨⟨w1, w2, w3⟩, ⟨i1, i2⟩, ha⟩ := h
  have hlen : b.buf.length ≤ 31 := by cases b.buf <;> decide
  refine ⟨?_, ?_, ?_⟩
  · simp only [loadUnit, BitVec.toNat_or, BitVec.toNat_shiftLeft, BitVec.toNat_setWidth]
    rw [and_mask8 _ _ w2, bufRead_toNat]
    set u := (bufferUnits s b.buf).getD b.idx.toNat 0 % 2^b.w.toNat with hu
    have hu1 : u < 2 ^ 8 :=
      lt_of_lt_of_le (Nat.mod_lt _ (by positivity)) (Nat.pow_le_pow_right (by norm_num) w2)
    rw [Nat.mod_eq_of_lt (by omega : u < 2^64), Nat.shiftLeft_eq]
    have : u * 2^b.n.toNat < 2^64 := by
      calc
        u * 2 ^ b.n.toNat < 2 ^ 8 * 2 ^ b.n.toNat := Nat.mul_lt_mul_of_pos_right hu1 (by positivity)
        _ ≤ 2^8 * 2^32 := Nat.mul_le_mul_left _ (Nat.pow_le_pow_right (by norm_num) hn)
        _ ≤ 2^64 := by norm_num
    rw [Nat.mod_eq_of_lt this, Nat.mul_comm, Nat.or_comm, ← Nat.two_pow_add_eq_or_of_lt ha]
    omega
  · simp only [loadUnit, BitVec.toNat_ofNat]; omega
  · simp only [loadUnit, BitVec.toNat_add]; simp; omega

theorem loadUnit_sound (s : State) (b : BitStream) (h : b.Sound) (hn : b.n.toNat ≤ 32)
    (hi : b.idx.toNat < b.stop.toNat) : (loadUnit s b).Sound := by
  obtain ⟨ea, en, ei⟩ := loadUnit_toNat s b h hn hi
  refine ⟨h.width, ⟨by rw [ei]; exact hi, h.window.2⟩, ?_⟩
  rw [ea, en, Nat.pow_add]
  have h1 := h.acc
  have h2 : (bufferUnits s b.buf).getD b.idx.toNat 0 % 2 ^ b.w.toNat + 1 ≤ 2 ^ b.w.toNat :=
    Nat.mod_lt _ (by positivity)
  have := Nat.mul_le_mul_left (2^b.n.toNat) h2
  rw [Nat.mul_add] at this
  omega

/-- Loading a unit takes no bit from the stream. -/
theorem pendingBits_loadUnit (s : State) (b : BitStream) (h : b.Sound) (hn : b.n.toNat ≤ 32)
    (hi : b.idx.toNat < b.stop.toNat) : pendingBits s (loadUnit s b) = pendingBits s b := by
  obtain ⟨ea, en, ei⟩ := loadUnit_toNat s b h hn hi
  unfold pendingBits
  rw [ea, en, ei]
  have e1 : (loadUnit s b).w = b.w := rfl
  have e2 : (loadUnit s b).buf = b.buf := rfl
  have e3 : (loadUnit s b).stop = b.stop := rfl
  rw [e1, e2, e3]
  have : b.stop.toNat - b.idx.toNat = (b.stop.toNat - (b.idx.toNat + 1)) + 1 := by omega
  rw [this, windowUnits_cons _ _ _ _ _ (by have := h.window; omega), stream]
  simp only [Nat.shiftLeft_eq, Nat.pow_add]
  ring

/-- Everything the loop of R149 does: it takes no bit from the stream, keeps the record's window, and ends with enough
bits or at the end of the window. -/
theorem fill_spec (s : State) (nb : Nat) (hnb : nb ≤ 32) (k : Nat) (b : BitStream) (h : b.Sound)
    (hk : b.stop.toNat - b.idx.toNat ≤ k) :
    (fill s nb k b).Sound ∧ pendingBits s (fill s nb k b) = pendingBits s b ∧ (fill s nb k b).buf = b.buf ∧
      (fill s nb k b).w = b.w ∧ (fill s nb k b).stop = b.stop ∧ (fill s nb k b).act = b.act ∧
      (nb ≤ (fill s nb k b).n.toNat ∨ (fill s nb k b).idx.toNat = b.stop.toNat) ∧
      ((fill s nb k b).n.toNat = b.n.toNat ∨ (fill s nb k b).n.toNat < nb + b.w.toNat) := by
  induction k generalizing b with
  | zero =>
    have := h.window
    exact ⟨h, rfl, rfl, rfl, rfl, rfl, .inr (by show b.idx.toNat = _; omega), .inl rfl⟩
  | succ k ih =>
    unfold fill
    split
    · rename_i hc
      have hn : b.n.toNat ≤ 32 := by omega
      have hl := loadUnit_sound s b h hn hc.2
      obtain ⟨ea, en, ei⟩ := loadUnit_toNat s b h hn hc.2
      obtain ⟨a1, a2, a3, a4, a5, a6, a7, a8⟩ :=
        ih (loadUnit s b) hl (by rw [ei]; show b.stop.toNat - _ ≤ _; omega)
      refine ⟨a1, a2.trans (pendingBits_loadUnit s b h hn hc.2), a3, a4, a5, a6, a7, ?_⟩
      right
      rcases a8 with a8 | a8
      · rw [a8, en]; omega
      · exact a8
    · have := h.window
      exact ⟨h, rfl, rfl, rfl, rfl, rfl, by omega, .inl rfl⟩

/-- A unit stored in an element, on numbers. -/
theorem bufWrite_units (s : State) (b : BufSel) (i : Nat) (v : Byte) (hv : b = .prm → v.toNat < 64) (e : Nat)
    (hi : i < b.length) :
    (bufferUnits (bufWrite s b i v) b)[e]? = if e = i then some v.toNat else (bufferUnits s b)[e]? := by
  cases b
  · have hv := hv rfl
    simp only [BufSel.length] at hi
    simp only [bufferUnits, bufWrite, List.getElem?_map, Vector.getElem?_toList, Vector.getElem?_setIfInBounds]
    by_cases h : i = e
    · simp [h, show e < 31 by omega]; omega
    · simp [h, Ne.symm h]
  · simp only [BufSel.length] at hi
    simp only [bufferUnits, bufWrite, List.getElem?_map, Vector.getElem?_toList, Vector.getElem?_setIfInBounds]
    by_cases h : i = e
    · simp [h, show e < 23 by omega]
    · simp [h, Ne.symm h]

theorem lowUnit_toNat (acc : BitVec 64) (w : Nat) (h : w ≤ 8) :
    ((acc &&& maskBits 64 w).setWidth 8).toNat = acc.toNat % 2^w := by
  rw [BitVec.toNat_setWidth, and_mask64 _ _ (by omega)]
  exact Nat.mod_eq_of_lt (lt_of_lt_of_le (Nat.mod_lt _ (by positivity)) (Nat.pow_le_pow_right (by norm_num) h))

/-- One turn of the loop of R154 stores the low unit of the accumulator. -/
theorem storeUnit_units (s : State) (h : 1 ≤ s.bw.w.toNat ∧ s.bw.w.toNat ≤ 8 ∧ (s.bw.buf = .prm → s.bw.w.toNat ≤ 6))
    (hi : s.bw.idx.toNat < s.bw.buf.length) (e : Nat) :
    (bufferUnits (storeUnit s) s.bw.buf)[e]? =
      if e = s.bw.idx.toNat then some (s.bw.acc.toNat % 2 ^ s.bw.w.toNat) else (bufferUnits s s.bw.buf)[e]? := by
  have hv : s.bw.buf = .prm → ((s.bw.acc &&& maskBits 64 s.bw.w.toNat).setWidth 8).toNat < 64 := by
    intro hp
    rw [lowUnit_toNat _ _ h.2.1]
    exact lt_of_lt_of_le (Nat.mod_lt _ (by positivity))
      (le_trans (Nat.pow_le_pow_right (by norm_num) (h.2.2 hp)) (by norm_num))
  have key := bufWrite_units s s.bw.buf s.bw.idx.toNat _ hv e hi
  rw [lowUnit_toNat _ _ h.2.1] at key
  rw [← key]
  unfold storeUnit bufferUnits
  cases s.bw.buf <;> rfl

theorem storeUnit_other (s : State) :
    (s.bw.buf = .prm → (storeUnit s).frm = s.frm) ∧ (s.bw.buf = .frm → (storeUnit s).prm = s.prm) := by
  unfold storeUnit bufWrite
  cases s.bw.buf <;> simp

/-- Everything `k` turns of the loop of R154 do. -/
theorem storeUnits_spec (k : Nat) (s : State)
    (h : 1 ≤ s.bw.w.toNat ∧ s.bw.w.toNat ≤ 8 ∧ (s.bw.buf = .prm → s.bw.w.toNat ≤ 6))
    (hn : s.bw.w.toNat * k ≤ s.bw.n.toNat) (hi : s.bw.idx.toNat + k ≤ s.bw.buf.length) :
    (storeUnits k s).bw =
        { s.bw with
          idx := BitVec.ofNat 8 (s.bw.idx.toNat + k)
          n := BitVec.ofNat 6 (s.bw.n.toNat - s.bw.w.toNat * k)
          acc := BitVec.ofNat 64 (s.bw.acc.toNat / 2 ^ (s.bw.w.toNat * k)) } ∧
      (s.bw.buf = .prm → (storeUnits k s).frm = s.frm) ∧ (s.bw.buf = .frm → (storeUnits k s).prm = s.prm) ∧
      ∀ e, (bufferUnits (storeUnits k s) s.bw.buf)[e]? =
        if s.bw.idx.toNat ≤ e ∧ e < s.bw.idx.toNat + k then
          some (s.bw.acc.toNat / 2 ^ (s.bw.w.toNat * (e - s.bw.idx.toNat)) % 2 ^ s.bw.w.toNat)
        else (bufferUnits s s.bw.buf)[e]? := by
  have hlen := bufSel_length_le s.bw.buf
  induction k generalizing s with
  | zero =>
    refine ⟨by simp [storeUnits], fun _ => rfl, fun _ => rfl, fun e => ?_⟩
    rw [if_neg (by omega)]; rfl
  | succ k ih =>
    have ei : (storeUnit s).bw.idx.toNat = s.bw.idx.toNat + 1 := by
      rw [storeUnit_bw]; simp only [BitVec.toNat_add]; simp; omega
    have en : (storeUnit s).bw.n.toNat = s.bw.n.toNat - s.bw.w.toNat := by
      rw [storeUnit_bw]; simp only; simp; omega
    have ea : (storeUnit s).bw.acc.toNat = s.bw.acc.toNat / 2 ^ s.bw.w.toNat := by
      rw [storeUnit_bw]; simp [Nat.shiftRight_eq_div_pow]
    have ew : (storeUnit s).bw.w = s.bw.w := rfl
    have eb : (storeUnit s).bw.buf = s.bw.buf := rfl
    rw [Nat.mul_add, Nat.mul_one] at hn
    obtain ⟨a1, a2, a3, a4⟩ :=
      ih (storeUnit s) h (by rw [ew, en]; omega) (by rw [ei, eb]; omega) (by rw [eb]; exact hlen)
    rw [ei, en, ea, ew] at a1
    rw [eb] at a2 a3
    rw [ei, eb, ea, ew] at a4
    obtain ⟨o1, o2⟩ := storeUnit_other s
    refine ⟨?_, fun hp => (a2 hp).trans (o1 hp), fun hp => (a3 hp).trans (o2 hp), ?_⟩
    · rw [storeUnits, a1, storeUnit_bw]
      simp only [Nat.div_div_eq_div_mul, ← Nat.pow_add]
      congr 2
      · omega
      · rw [Nat.mul_add]; omega
      · congr 2; ring
    · intro e
      rw [storeUnits, a4 e, storeUnit_units s h (by omega)]
      by_cases h1 : e = s.bw.idx.toNat
      · subst h1; simp
      · by_cases h2 : s.bw.idx.toNat + 1 ≤ e ∧ e < s.bw.idx.toNat + 1 + k
        · rw [if_pos h2, if_pos (by omega), Nat.div_div_eq_div_mul, ← Nat.pow_add]
          congr 4
          obtain ⟨d, hd⟩ : ∃ d, e = s.bw.idx.toNat + 1 + d := ⟨e - (s.bw.idx.toNat + 1), by omega⟩
          rw [show e - (s.bw.idx.toNat + 1) = d by omega, show e - s.bw.idx.toNat = d + 1 by omega]
          ring
        · rw [if_neg h2, if_neg h1, if_neg (by omega)]

/-- OPR appended to the writer's accumulator, on numbers. -/
theorem appendOpr_toNat (s : State) (nb : Nat) (hnb : nb ≤ 32) (hn : s.bw.n.toNat ≤ 8)
    (ha : s.bw.acc.toNat < 2 ^ s.bw.n.toNat) :
    (appendOpr s nb).bw.acc.toNat = s.bw.acc.toNat + s.opr.toNat * 2 ^ s.bw.n.toNat ∧
      (appendOpr s nb).bw.n.toNat = s.bw.n.toNat + nb := by
  refine ⟨?_, ?_⟩
  · rw [appendOpr_bw]
    simp only [BitVec.toNat_or, BitVec.toNat_shiftLeft, BitVec.toNat_setWidth]
    have := s.opr.isLt
    rw [Nat.mod_eq_of_lt (by omega : s.opr.toNat < 2^64), Nat.shiftLeft_eq]
    have : s.opr.toNat * 2^s.bw.n.toNat < 2^64 := by
      calc
        s.opr.toNat * 2 ^ s.bw.n.toNat < 2 ^ 32 * 2 ^ s.bw.n.toNat :=
          Nat.mul_lt_mul_of_pos_right this (by positivity)
        _ ≤ 2^32 * 2^8 := Nat.mul_le_mul_left _ (Nat.pow_le_pow_right (by norm_num) hn)
        _ ≤ 2^64 := by norm_num
    rw [Nat.mod_eq_of_lt this, Nat.or_comm, Nat.mul_comm, ← Nat.two_pow_add_eq_or_of_lt ha]; omega
  · rw [appendOpr_bw]; simp; omega

end Sys2Proof.Machine
end

