-- ==== Sys2Proof/Laws/Symbol.lean ====
section
/-! SUPPORT. The symbol translator's shared operations, said once: table lookup, the stripped text, and how PARSE ends. -/

namespace Sys2Proof.Machine

theorem upper_idem (b : Byte) : upper (upper b) = upper b := by revert b; decide

/-- PARSE's stripped text is the password text. -/
theorem strippedText_eq (s : State) : strippedText s = passwordChars s := by
  unfold strippedText passwordChars
  congr 1
  apply List.filter_congr
  intro b _
  have : ∀ b : Byte, (!isSpace b) = decide (BitVec.toNat b ∉ [9, 10, 11, 12, 13, 32]) := by decide
  exact this b

/-- LOOKUP finds nothing only where no entry is the upper-cased token. -/
theorem ne_of_lookup_none {cfg : Tables} {tok : Token} (h : lookup cfg tok = none) (c : Fin 64) :
    cfg.symTable[c] ≠ (upper tok.1, upper tok.2) := by
  simp only [lookup, Option.map_eq_none_iff, List.findIdx?_eq_none_iff] at h
  intro hc
  have := h cfg.symTable[c] (by simp)
  simp [hc] at this

/-- LOOKUP finds the code of the upper-cased token. -/
theorem lookup_eq_some {cfg : Tables} {tok : Token} (c : Fin 64) (hv : cfg.SymTableOk)
    (h : cfg.symTable[c] = (upper tok.1, upper tok.2)) : lookup cfg tok = some (BitVec.ofNat 6 c.val) := by
  have : cfg.symTable.toList.findIdx? (fun t => t == (upper tok.1, upper tok.2)) = some c.val := by
    rw [List.findIdx?_eq_some_iff_getElem]
    refine ⟨by simp, by simpa using h, ?_⟩
    intro j hj
    have hj' : j < 64 := by omega
    simp only [Vector.getElem_toList, beq_iff_eq, ← h]
    intro he
    have := hv.1 ⟨j, hj'⟩ c he
    simp [← this] at hj
  simp [lookup, this]

/-- Token `k` of a list of characters. -/
theorem getElem?_pairTokens (l : List Byte) (k : Nat) (h : 2 * k + 1 < l.length) :
    (pairTokens l)[k]? = some (l.getD (2 * k) 0#8, l.getD (2 * k + 1) 0#8) := by
  induction k generalizing l with
  | zero => match l, h with
    | a :: b :: r, _ => rfl
  | succ k ih => match l, h with
    | a :: b :: r, h =>
      simp only [pairTokens, List.getElem?_cons_succ]
      rw [ih r (by simp at h; omega)]
      rfl

theorem pairTokens_length (l : List Byte) : (pairTokens l).length = l.length / 2 := by
  fun_induction pairTokens l with
  | case1 a b r ih => simp [ih]; omega
  | case2 => simp
  | case3 => simp

/-- Translation stops at a token that is not in the table. -/
theorem lookupAll_error {cfg : Tables} {k j : Nat} {toks : List Token} (h : lookupAll cfg k toks = .error j) :
    k ≤ j ∧ ∃ tok, toks[j - k]? = some tok ∧ lookup cfg tok = none := by
  induction toks generalizing k with
  | nil => simp [lookupAll] at h
  | cons t r ih =>
    simp only [lookupAll] at h
    split at h
    · cases h; exact ⟨le_refl _, t, by simp, by assumption⟩
    · split at h
      · cases h
      · cases h
        rename_i hh
        obtain ⟨h1, tok, h2, h3⟩ := ih hh
        refine ⟨by omega, tok, ?_, h3⟩
        rw [← h2]; rw [show j - k = (j - (k+1)) + 1 by omega]; rfl

/-- The characters of the password text are upper-case already. -/
theorem upper_passwordChars {s : State} {m : Nat} (h : m < (passwordChars s).length) :
    upper ((passwordChars s).getD m 0#8) = (passwordChars s).getD m 0#8 := by
  have : (passwordChars s).getD m 0#8 ∈ passwordChars s := by
    rw [List.getD_eq_getElem _ _ h]; exact List.getElem_mem h
  unfold passwordChars at this ⊢
  obtain ⟨b, -, hb⟩ := List.mem_map.1 this
  rw [← hb, upper_idem]

/-- The tokens PARSE translates are the password text's. -/
theorem pairTokens_passwordChars {s : State} (hl : (passwordChars s).length = 60) {k : Nat} (hk : k < 30) :
    (pairTokens (passwordChars s))[k]? = some (passwordToken s k) := by
  rw [getElem?_pairTokens _ _ (by omega)]; rfl

/-- The three ways in which PARSE fails. -/
theorem parseBody_error {w : Word} {s : State} {e : CmdError} (h : parseBody w s = .error e) :
    (256 < s.txtlen.toNat ∧ e = ⟨.illegalOperand, w⟩) ∨
      (s.txtlen.toNat ≤ 256 ∧ (passwordChars s).length ≠ 60 ∧
        e = ⟨.invalidLength, BitVec.ofNat 32 (passwordChars s).length⟩) ∨
      (s.txtlen.toNat ≤ 256 ∧ (passwordChars s).length = 60 ∧
        ∃ k < 30, e = ⟨.invalidSymbol, BitVec.ofNat 32 k⟩ ∧ lookup s.cfg (passwordToken s k) = none) := by
  unfold parseBody at h
  rw [strippedText_eq] at h
  split at h
  · cases h; left; exact ⟨by omega, rfl⟩
  · split at h
    · cases h; right; left; exact ⟨by omega, by assumption, rfl⟩
    · split at h
      · rename_i k hk
        cases h
        right; right
        obtain ⟨-, tok, h2, h3⟩ := lookupAll_error hk
        have hl : (passwordChars s).length = 60 := by omega
        have h30 : k < 30 := by
          have := (List.getElem?_eq_some_iff.1 h2).1; rw [pairTokens_length] at this; omega
        refine ⟨by omega, hl, k, h30, rfl, ?_⟩
        rw [Nat.sub_zero, pairTokens_passwordChars hl h30] at h2; cases h2; exact h3
      · cases h

theorem passwordChars_length_le (s : State) : (passwordChars s).length ≤ 256 := by
  unfold passwordChars
  rw [List.length_map]
  refine le_trans (List.length_filter_le _ _) ?_
  simp

/-- Translation of tokens that are all in the table. -/
theorem lookupAll_ok {cfg : Tables} (f : Nat → Code) (k : Nat) (toks : List Token)
    (h : ∀ j (hj : j < toks.length), lookup cfg toks[j] = some (f j)) :
    lookupAll cfg k toks = .ok ((List.range toks.length).map f) := by
  induction toks generalizing k f with
  | nil => rfl
  | cons t r ih =>
    have h0 := h 0 (by simp)
    simp only [List.getElem_cons_zero] at h0
    simp only [lookupAll, h0]
    rw [ih (fun j => f (j+1)) (k+1) (fun j hj => by have := h (j+1) (by simp; omega); simpa using this)]
    simp [List.range_succ_eq_map, Function.comp_def]

theorem upper_passwordToken {s : State} (hl : (passwordChars s).length = 60) (k : Fin 30) :
    (upper (passwordToken s k.val).1, upper (passwordToken s k.val).2) = passwordToken s k.val := by
  have := k.isLt
  unfold passwordToken
  simp only
  rw [upper_passwordChars (by omega), upper_passwordChars (by omega)]

/-- Translation where token `j` is the first that is not in the table. -/
theorem lookupAll_of_unknown {cfg : Tables} (k j : Nat) (toks : List Token) (tok : Token)
    (h : ∀ m tok, m < j → toks[m]? = some tok → lookup cfg tok ≠ none) (hj : toks[j]? = some tok)
    (hn : lookup cfg tok = none) : lookupAll cfg k toks = .error (k + j) := by
  induction toks generalizing k j with
  | nil => simp at hj
  | cons t r ih =>
    cases j with
    | zero => simp at hj; subst hj; simp [lookupAll, hn]
    | succ j =>
      have := h 0 t (by omega) (by simp)
      obtain ⟨c, hc⟩ := Option.ne_none_iff_exists'.1 this
      simp only [lookupAll, hc]
      rw [ih (k+1) j (fun m tok hm ht => h (m+1) tok (by omega) (by simpa using ht)) (by simpa using hj)]
      simp; omega

/-- LOOKUP finds nothing where no entry is the upper-cased token. -/
theorem lookup_eq_none {cfg : Tables} {tok : Token}
    (h : ∀ c : Fin 64, cfg.symTable[c] ≠ (upper tok.1, upper tok.2)) : lookup cfg tok = none := by
  simp only [lookup, Option.map_eq_none_iff, List.findIdx?_eq_none_iff]
  intro t ht
  simp only [Vector.mem_toList_iff, Vector.mem_iff_getElem] at ht
  obtain ⟨c, hc, rfl⟩ := ht
  have := h ⟨c, hc⟩
  simpa using this

end Sys2Proof.Machine
end

