-- ==== Sys2Proof/Tests/ExampleConfig.lean ====
section
/-! SUPPORT. The example configuration EXCFG of 95_test_vectors.md section 2. It is not the game's tables. -/

namespace Sys2Proof.Tests

/-- Code `13*s + v` is the value "ABCDEFGHIJKLM"[v] with the suit "VWXYZ"[s]. -/
def exSymTable : Vector Token 64 :=
  Vector.ofFn fun c => (BitVec.ofNat 8 (0x41 + c.val % 13), BitVec.ofNat 8 (0x56 + c.val / 13))

/-- `P[i] = (7*i + 3) mod 30`. -/
def exPerm : Vector (Fin 30) 30 := Vector.ofFn fun i => Fin.ofNat 30 (7 * i.val + 3)

/-- The UTF-8 bytes of the character U+0100 + c. -/
def exSymGlyph : Vector (List Byte) 64 := Vector.ofFn fun c => [0xC4#8, BitVec.ofNat 8 (0x80 + c.val)]

/-- EXCFG. -/
def exConfig : Tables where
  symTable := exSymTable
  perm := exPerm
  symGlyph := exSymGlyph
  crcTable := crcTableDefault
  crcInit := 0xFFFFFFFF#32
  crcXorOut := 0xFFFFFFFF#32

end Sys2Proof.Tests
end

