-- ==== Sys2Proof/Tests/Slice0.lean ====
section
/-! SUPPORT. Tests of single steps and words, and a witness for every statement with hypotheses. Expected values are those of
95_test_vectors.md (the vector or program is named) or worked out by hand from the rule named. -/

namespace Sys2Proof.Tests

-- The tests are checked one after the other: each evaluates in the kernel, and a thread for each at once takes too much memory.
set_option Elab.async false

open Sys2Proof.Machine

/-- The machine after reset with EXCFG. -/
def exState : State := { State.reset with cfg := exConfig }

/-- The state that an outcome answers, or the reset state. -/
def after (o : Host.Outcome State Fault Refusal) : State :=
  match o with
  | .next t => t
  | .fault _ => State.reset
  | .refused _ => State.reset

/-- The reason of a refused step. -/
def refusalOf (o : Host.Outcome State Fault Refusal) : Option Refusal :=
  match o with
  | .next _ => none
  | .fault _ => none
  | .refused r => some r

/-- ERR and RES after an outcome. -/
def errRes (o : Host.Outcome State Fault Refusal) : ErrCode × Word := ((after o).status.err, (after o).res)

/-- TXT filled with `text`, TXTLEN its length. -/
def withText (text : List Byte) (s : State) : State :=
  { s with txt := Vector.ofFn fun i => text.getD i.val 0#8, txtlen := BitVec.ofNat 9 text.length }

/-- FRM filled with `bytes`. -/
def withFrame (bytes : List Byte) (s : State) : State :=
  { s with frm := Vector.ofFn fun i => bytes.getD i.val 0#8 }

/-- "AV" repeated. -/
def avs (n : Nat) : List Byte := (List.replicate n [0x41#8, 0x56#8]).flatten

/-- The bytes of FRM as numbers. -/
def frameNats (s : State) : List Nat := s.frm.toList.map BitVec.toNat

/-- The text of program 4. -/
def program4Text : List Byte :=
  [0x47#8, 0x77#8, 0x4A#8, 0x7A#8, 0x4D#8, 0x77#8, 0x47#8, 0x76#8, 0x4B#8, 0x77#8, 0x20#8, 0x47#8, 0x78#8] ++
   [0x4C#8, 0x76#8, 0x47#8, 0x77#8, 0x4B#8, 0x79#8, 0x41#8, 0x78#8, 0x20#8, 0x43#8, 0x76#8, 0x47#8, 0x78#8] ++
   [0x4C#8, 0x79#8, 0x41#8, 0x78#8, 0x41#8, 0x76#8, 0x0A#8, 0x43#8, 0x78#8, 0x41#8, 0x78#8, 0x41#8, 0x76#8] ++
   [0x46#8, 0x79#8, 0x4B#8, 0x7A#8, 0x20#8, 0x49#8, 0x79#8, 0x4A#8, 0x7A#8, 0x48#8, 0x78#8, 0x4C#8, 0x77#8] ++
   [0x44#8, 0x77#8, 0x20#8, 0x48#8, 0x76#8, 0x41#8, 0x76#8, 0x46#8, 0x77#8, 0x44#8, 0x77#8, 0x46#8, 0x7A#8]

/-- The plain frame of program 3. -/
def program3Frame : List Byte :=
  [0x00#8, 0x78#8, 0x56#8, 0x34#8, 0x12#8, 0x05#8, 0x11#8, 0x32#8, 0x04#8, 0x00#8, 0x00#8, 0x00#8] ++
   [0x00#8, 0x00#8, 0x00#8, 0x00#8, 0x00#8, 0x00#8, 0x40#8, 0xBC#8, 0x37#8, 0xAF#8, 0x0A#8]

/-! ### Well-formedness: each check refuses an ill-formed term -/

theorem test_wf_cksum_empty : (Instr.cksum 0#8 0#8).wellFormed = false := by decide
theorem test_wf_cksum_overrun : (Instr.cksum 20#8 4#8).wellFormed = false := by decide
theorem test_wf_width_zero : (Instr.brinit 0#4 .frm 0#8 1#8).wellFormed = false := by decide
theorem test_wf_width_nine : (Instr.bwinit 9#4 .frm 0#8 1#8).wellFormed = false := by decide
theorem test_wf_width_seven_on_prm : (Instr.brinit 7#4 .prm 0#8 31#8).wellFormed = false := by decide
theorem test_wf_window_overrun : (Instr.bwinit 8#4 .frm 20#8 4#8).wellFormed = false := by decide
theorem test_wf_no_bits : (Instr.brread 0#8).wellFormed = false := by decide
theorem test_wf_too_many_bits : (Instr.bwwrite 33#8).wellFormed = false := by decide
theorem test_wf_limits :
    (Instr.brinit 6#4 .prm 0#8 31#8).wellFormed = true ∧ (Instr.bwinit 8#4 .frm 23#8 0#8).wellFormed = true ∧
      (Instr.brread 32#8).wellFormed = true ∧ (Instr.cksum 22#8 1#8).wellFormed = true := by decide

/-! ### Decoding: words written out from R95, R97 and R102, every constructor -/

theorem test_decode_symbol :
    decode 0x00000001#32 = .ok .parse ∧ decode 0x00000002#32 = .ok .render ∧
      decode 0x56410003#32 = .ok (.symdec 0x41#8 0x56#8) ∧ decode 0x003F0004#32 = .ok (.symenc 63#6) := by decide +kernel

theorem test_decode_permutation_and_packing :
    decode 0x00000010#32 = .ok .papply ∧ decode 0x00000011#32 = .ok .punapply ∧
      decode 0x00000020#32 = .ok .pack68 ∧ decode 0x00000021#32 = .ok .pack86 := by decide +kernel

theorem test_decode_obfuscator :
    decode 0x00000030#32 = .ok .pseedf ∧ decode 0x12340031#32 = .ok (.pseedi 0x1234#16) ∧
      decode 0x00000032#32 = .ok .pnext ∧ decode 0x00000033#32 = .ok .obfdec ∧
      decode 0x00000034#32 = .ok .obfenc := by decide +kernel

theorem test_decode_checksum :
    decode 0x00160140#32 = .ok (.cksum 1#8 22#8) ∧ decode 0x00000041#32 = .ok .ckchk ∧
      decode 0x00000042#32 = .ok .ckgen ∧ decode 0x00000050#32 = .ok .crcinit ∧
      decode 0x00310051#32 = .ok (.crcbyte 0x31#8) ∧ decode 0x00000052#32 = .ok .crcfin ∧
      decode 0x00000053#32 = .ok .crcsym := by decide +kernel

theorem test_decode_streams :
    decode 0x16011860#32 = .ok (.brinit 8#4 .frm 1#8 22#8) ∧ decode 0x00002061#32 = .ok (.brread 32#8) ∧
      decode 0x00000062#32 = .ok .brmore ∧ decode 0x02000664#32 = .ok (.bwinit 6#4 .prm 0#8 2#8) ∧
      decode 0x00000965#32 = .ok (.bwwrite 9#8) ∧ decode 0x00000066#32 = .ok .bwflush := by decide +kernel

theorem test_decode_control :
    decode 0x00000000#32 = .ok .nop ∧ decode 0x00000070#32 = .ok .decodePw ∧
      decode 0x00000071#32 = .ok (.encodePw false) ∧ decode 0x00000171#32 = .ok (.encodePw true) ∧
      decode 0x0000007F#32 = .ok .clrerr := by decide +kernel

/-- V-E1 to V-E9: no word of these is a command. -/
theorem test_decode_rejects :
    [0x00000005#32, 0x00000080#32, 0x00000163#32, 0x000000FF#32].map decode =
        List.replicate 4 (.error .unknownOpcode) ∧
      [0x00000100#32, 0x00400004#32, 0x01000051#32, 0x00000271#32, 0x0000E060#32].map decode =
        List.replicate 5 (.error .reservedBit) := by decide +kernel

/-- The opcode table's numbering: CKSUM 1, 22 in its 24 bits. -/
theorem test_decodeTableWord : decodeTableWord 24 0x160140 = some (.cksum 1#8 22#8) := by decide +kernel

/-! ### One command each -/

/-- V-E2, from reset: STATUS = 0x383, RES = the word. -/
theorem test_illegal_command :
    ((after (runWord 0x00000100#32 exState)).status.word, (after (runWord 0x00000100#32 exState)).res) =
      (0x383#32, 0x100#32) := by decide +kernel

/-- 3.8: NOP after a failure leaves ERR 0 with STICKY and FIRSTERR kept (0x686 becomes 0x680). -/
theorem test_nop : (after (execNop (raise ⟨.notSeeded, 0x32#32⟩ exState))).status.word = 0x680#32 := by decide

/-- 3.8: CLRERR from STATUS = 0x686 gives 0. -/
theorem test_clrerr : (after (execClrerr (raise ⟨.notSeeded, 0x32#32⟩ exState))).status.word = 0#32 := by decide

/-- V-T7: "av" 29 times, then "l z". -/
theorem test_parse :
    (after (execParse (withText ((List.replicate 29 [0x61#8, 0x76#8]).flatten ++ [0x6C#8, 0x20#8, 0x7A#8])
      exState))).sym.toList = List.replicate 29 0#6 ++ [63#6] := by decide +kernel

/-- V-T10, V-T11, V-T13: a NUL is no whitespace; it stands in no token; TXTLEN = 300. -/
theorem test_parse_fails :
    errRes (execParse (withText (avs 30 ++ [0#8]) exState)) = (.invalidLength, 61#32) ∧
      errRes (execParse (withText (avs 29 ++ [0x41#8, 0#8]) exState)) = (.invalidSymbol, 29#32) ∧
      errRes (execParse { exState with txtlen := 300#9 }) = (.illegalOperand, 1#32) := by decide +kernel

/-- V-T5. -/
theorem test_render :
    (after (execRender { exState with sym := Vector.ofFn fun i => BitVec.ofNat 6 i.val })).out.toList =
      [0x41#8, 0x76#8, 0x42#8, 0x76#8, 0x43#8, 0x76#8, 0x44#8, 0x76#8, 0x45#8, 0x76#8, 0x20#8, 0x46#8, 0x76#8] ++
       [0x47#8, 0x76#8, 0x48#8, 0x76#8, 0x49#8, 0x76#8, 0x4A#8, 0x76#8, 0x20#8, 0x4B#8, 0x76#8, 0x4C#8, 0x76#8] ++
       [0x4D#8, 0x76#8, 0x41#8, 0x77#8, 0x42#8, 0x77#8, 0x0A#8, 0x43#8, 0x77#8, 0x44#8, 0x77#8, 0x45#8, 0x77#8] ++
       [0x46#8, 0x77#8, 0x47#8, 0x77#8, 0x20#8, 0x48#8, 0x77#8, 0x49#8, 0x77#8, 0x4A#8, 0x77#8, 0x4B#8, 0x77#8] ++
       [0x4C#8, 0x77#8, 0x20#8, 0x4D#8, 0x77#8, 0x41#8, 0x78#8, 0x42#8, 0x78#8, 0x43#8, 0x78#8, 0x44#8, 0x78#8] := by decide +kernel

/-- V-T2, V-T3: "av" is code 0; "MZ" is in no entry. -/
theorem test_symdec :
    errRes (execSymdec 0x61#8 0x76#8 exState) = (.ok, 0#32) ∧
      errRes (execSymdec 0x4D#8 0x5A#8 exState) = (.invalidSymbol, 0#32) := by decide +kernel

/-- V-T4: code 63 is "LZ". -/
theorem test_symenc : (after (execSymenc 63#6 exState)).res = 0x5A4C#32 := by decide +kernel

/-- V-P1. -/
theorem test_papply :
    ((after (execPapply { exState with sym := Vector.ofFn fun i => BitVec.ofNat 6 i.val })).prm.toList.take 8).map
      BitVec.toNat = [3, 10, 17, 24, 1, 8, 15, 22] := by decide +kernel

/-- V-P2. -/
theorem test_punapply :
    ((after (execPunapply { exState with prm := Vector.ofFn fun i => BitVec.ofNat 6 i.val })).sym.toList.take 8).map
      BitVec.toNat = [21, 4, 17, 0, 13, 26, 9, 22] := by decide +kernel

/-- V-R1. -/
theorem test_pack68 :
    frameNats (after (execPack68 { exState with prm := Vector.ofFn fun i => BitVec.ofNat 6 i.val })) =
      [0x40, 0x20, 0x0C, 0x44, 0x61, 0x1C, 0x48, 0xA2, 0x2C, 0x4C, 0xE3, 0x3C] ++
      [0x50, 0x24, 0x4D, 0x54, 0x65, 0x5D, 0x58, 0xA6, 0x6D, 0x5C, 0x07] := by decide +kernel

/-- V-R6b: only the high bits of a nibble move. -/
theorem test_pack86 :
    (after (execPack86 (withFrame (List.replicate 22 0#8 ++ [0x0F#8]) exState))).prm.toList =
      List.replicate 29 0#6 ++ [0x3C#6, 0#6] := by decide +kernel

/-- V-O1 and V-O2, seed 0x1234. -/
theorem test_pseedi :
    ((after (execPseedi 0x1234#16 exState)).gen.st.toList.take 4 =
      [0x20E89A0F#32, 0x1525D304#32, 0x7CC7D2C7#32, 0x28E2239E#32]) ∧
      (after (execPseedi 0x1234#16 exState)).gen.pcurWord = 0x1F00#32 := by decide +kernel

/-- V-O3. -/
theorem test_pseedf :
    (after (execPseedf (withFrame [0x34#8, 0x12#8] exState))).gen.st.toList.take 4 =
      [0x20E89A0F#32, 0x1525D304#32, 0x7CC7D2C7#32, 0x28E2239E#32] := by decide +kernel

/-- V-O2 and program 1: PNEXT from reset. -/
theorem test_pnext_not_seeded :
    (after (execPnext exState)).status.word = 0x686#32 ∧ (after (execPnext exState)).res = 0x32#32 := by decide

/-- V-O1: the first value of seed 0. -/
theorem test_pnext :
    (after (execPnext { exState with gen := seedGen 0#16, status := exState.status.seed })).res = 0x75D1C2FA#32 := by
  decide +kernel

/-- V-O4, the third and fourth rows. -/
theorem test_obfuscation :
    frameNats (after (execObfenc (withFrame (List.replicate 23 0xFF#8) exState))) =
      [0xFF, 0xFF, 0xE0, 0xAD, 0x60, 0x5F, 0xB5, 0x16, 0x64, 0xD6, 0x2A, 0x01] ++
      [0xCD, 0xE7, 0x32, 0xD9, 0x46, 0xC8, 0xC7, 0x21, 0x3B, 0x37, 0x04] := by decide +kernel

/-- V-O4, the second row. -/
theorem test_obfdec :
    frameNats (after (execObfdec exState)) =
      [0x00, 0x00, 0x06, 0xF4, 0x19, 0x0E, 0xE6, 0xD7, 0x6E, 0x3E, 0x1B, 0x9A] ++
      [0xAA, 0x60, 0xDC, 0x27, 0x7C, 0x04, 0x56, 0x4B, 0xA7, 0x16, 0x07] := by decide +kernel

/-- V-C1 to V-C7. -/
theorem test_chk :
    [[0x00#8], [0xFF#8], [1#8, 2#8], [1#8, 2#8, 3#8], [0x12#8, 0x34#8, 0x56#8], [0x10#8, 0x20#8, 0x30#8, 0x40#8],
      [0x01#8, 0xFF#8]].map chk = [0xFF#8, 0x00#8, 0xFC#8, 0xF9#8, 0x63#8, 0x5F#8, 0xFE#8] := by decide

/-- 3.6: CKSUM 1, 22 on FRM[i] = i; CKSUM 20, 4 is illegal. -/
theorem test_cksum :
    errRes (execCksum 1#8 22#8 { exState with frm := Vector.ofFn fun i => BitVec.ofNat 8 i.val }) = (.ok, 0x02#32) ∧
      errRes (execCksum 20#8 4#8 exState) = (.illegalOperand, 0x00041440#32) := by decide +kernel

/-- Program 1: CKCHK with FRM[0] = 0 is a mismatch, STATUS = 0x10 before any seeding. -/
theorem test_ckchk :
    (after (execCkchk { exState with frm := Vector.ofFn fun i => BitVec.ofNat 8 i.val })).status.word = 0x10#32 := by
  decide +kernel

/-- Program 1: CKGEN stores 02. -/
theorem test_ckgen :
    ((after (execCkgen { exState with frm := Vector.ofFn fun i => BitVec.ofNat 8 i.val })).frm[0],
      (after (execCkgen { exState with frm := Vector.ofFn fun i => BitVec.ofNat 8 i.val })).status.word) =
      (0x02#8, 0x30#32) := by decide +kernel

theorem test_crcinit : (after (execCrcinit exState)).crc = 0xFFFFFFFF#32 := by decide +kernel

/-- V-K4. -/
theorem test_crcbyte :
    (after (execCrcbyte 0x31#8 { exState with crc := 0xFFFFFFFF#32 })).crc = 0x7C231048#32 := by decide +kernel

/-- V-K1. -/
theorem test_crcfin : (after (execCrcfin { exState with crc := 0x340BC6D9#32 })).res = 0xCBF43926#32 := by
  decide +kernel

/-- V-K5. -/
theorem test_crcsym :
    (after (execCrcsym { exState with sym := Vector.ofFn fun i => BitVec.ofNat 6 i.val })).res = 0xFD2A21FE#32 ∧
      (after (execCrcsym { exState with sym := Vector.ofFn fun i => BitVec.ofNat 6 i.val })).revive =
        0x3D2A21FE#30 := by decide +kernel

/-- V-R9: width 7 on PRM. -/
theorem test_brinit_illegal : errRes (execBrinit 7#4 .prm 0#8 31#8 exState) = (.illegalOperand, 0x1F000760#32) := by
  decide

/-- V-R10: 12 bits of FRM[20..22] = 54 65 76, and BRSTAT after them. -/
theorem test_brread :
    (after (execBrread 12#8 { withFrame (List.replicate 20 0#8 ++ [0x54#8, 0x65#8, 0x76#8]) exState with
      br := openStream 8#4 .frm 20#8 3#8 })).res = 0x554#32 ∧
      brstatWord (after (execBrread 12#8 { withFrame (List.replicate 20 0#8 ++ [0x54#8, 0x65#8, 0x76#8]) exState with
        br := openStream 8#4 .frm 20#8 3#8 })).br = 0xD8041716#32 := by decide +kernel

/-- V-R7: BRREAD 8 before any BRINIT. -/
theorem test_brread_not_init : errRes (execBrread 8#8 exState) = (.notInit, 0x00000861#32) := by decide

/-- R151: a fresh reader on a window has more, one on an empty window has not. -/
theorem test_brmore :
    errRes (execBrmore { exState with br := openStream 8#4 .frm 1#8 22#8 }) = (.ok, 1#32) ∧
      errRes (execBrmore { exState with br := openStream 8#4 .frm 1#8 0#8 }) = (.ok, 0#32) := by decide

/-- R153 and R38: BWSTAT after BWINIT PRM, 6, 0, 2. -/
theorem test_bwinit : bwstatWord (after (execBwinit 6#4 .prm 0#8 2#8 exState)).bw = 0x86000200#32 := by decide

/-- V-R12: 0x40 does not fit in 6 bits. -/
theorem test_bwwrite_range :
    errRes (execBwwrite 6#8 { exState with opr := 0x40#32, bw := openStream 6#4 .prm 0#8 2#8 }) =
      (.fieldRange, 0x00000665#32) := by decide

/-- V-R17: WRBITS 0x1FF, 9 into FRM[3..4]. -/
theorem test_bwwrite :
    (after (execBwwrite 9#8 { exState with opr := 0x1FF#32, bw := openStream 8#4 .frm 3#8 2#8 })).frm[3] = 0xFF#8 ∧
      bwstatWord (after (execBwwrite 9#8 { exState with opr := 0x1FF#32, bw := openStream 8#4 .frm 3#8 2#8 })).bw =
        0x98010504#32 := by decide +kernel

/-- V-R14: the partial unit is stored zero-padded. -/
theorem test_bwflush :
    (after (execBwflush { exState with bw :=
      { openStream 6#4 .prm 0#8 2#8 with idx := 1#8, n := 1#6, acc := 1#64 } })).prm[1] = 0x01#6 := by decide +kernel

/-- Program 4: RES, STATUS, REVIVE and FRM after DECODE. -/
theorem test_decode_pipeline :
    errRes (execDecode (withText program4Text exState)) = (.ok, 0x86#32) ∧
      (after (execDecode (withText program4Text exState))).status.word = 0x70#32 ∧
      (after (execDecode (withText program4Text exState))).revive = 0x03CECEFA#30 ∧
      (after (execDecode (withText program4Text exState))).frm.toList =
        [0x86#8, 0x00#8, 0xCA#8, 0x9A#8, 0x3B#8, 0xAA#8, 0xFC#8, 0x17#8, 0x19#8, 0x00#8, 0x00#8, 0x00#8] ++
         [0x00#8, 0x00#8, 0x00#8, 0x00#8, 0x00#8, 0x00#8, 0x40#8, 0x81#8, 0xA1#8, 0x99#8, 0x04#8] := by
  decide +kernel

/-- Program 3: RES, STATUS, FRM and OUT after ENCODE 1. -/
theorem test_encode_pipeline :
    errRes (execEncode true (withFrame program3Frame exState)) = (.ok, 0xB0#32) ∧
      (after (execEncode true (withFrame program3Frame exState))).status.word = 0x70#32 ∧
      (after (execEncode true (withFrame program3Frame exState))).frm.toList =
        [0xB0#8, 0x78#8, 0x30#8, 0xCF#8, 0xF0#8, 0x0D#8, 0x4A#8, 0x60#8, 0x33#8, 0xFF#8, 0xA8#8, 0xD4#8] ++
         [0xE1#8, 0xE7#8, 0x7C#8, 0x39#8, 0x41#8, 0x99#8, 0xCA#8, 0x38#8, 0x01#8, 0xAD#8, 0x07#8] ∧
      (after (execEncode true (withFrame program3Frame exState))).out.toList =
        [0x45#8, 0x76#8, 0x43#8, 0x77#8, 0x46#8, 0x78#8, 0x4A#8, 0x79#8, 0x4A#8, 0x78#8, 0x20#8, 0x47#8, 0x77#8] ++
         [0x42#8, 0x76#8, 0x48#8, 0x77#8, 0x44#8, 0x76#8, 0x42#8, 0x77#8, 0x20#8, 0x49#8, 0x78#8, 0x4B#8, 0x76#8] ++
         [0x41#8, 0x76#8, 0x43#8, 0x7A#8, 0x4D#8, 0x78#8, 0x0A#8, 0x46#8, 0x78#8, 0x46#8, 0x78#8, 0x48#8, 0x76#8] ++
         [0x42#8, 0x7A#8, 0x47#8, 0x79#8, 0x20#8, 0x4D#8, 0x76#8, 0x4B#8, 0x76#8, 0x44#8, 0x76#8, 0x46#8, 0x7A#8] ++
         [0x4D#8, 0x76#8, 0x20#8, 0x48#8, 0x78#8, 0x45#8, 0x78#8, 0x4C#8, 0x7A#8, 0x4A#8, 0x78#8, 0x4B#8, 0x76#8] := by
  decide +kernel

/-! ### The host port -/

/-- R63, R31: a write to TXTLEN keeps 9 bits; R64: a write to STATUS is ignored. -/
theorem test_host_write :
    (after (step { exState with host := [.write 0x0010#16 4 0xFFFFFFFF#32] })).txtlen = 0x1FF#9 ∧
      (after (step { exState with host := [.write 0x0004#16 4 0xFFFFFFFF#32] })).status = exState.status := by
  decide +kernel

/-- R62, R72: SYM_TABLE[63] = "LZ" is read at 0x21FC. -/
theorem test_host_read :
    (after (step { exState with host := [.read 0x21FC#16 4] })).rdata = some 0x5A4C#32 := by decide +kernel

/-- R61, R65: width 2, address 0x0006, and the first address past OUT. -/
theorem test_bus_errors :
    refusalOf (step { exState with host := [.read 0x0004#16 2] }) = some .busWidth ∧
      refusalOf (step { exState with host := [.write 0x0006#16 4 0#32] }) = some .busMisaligned ∧
      refusalOf (step { exState with host := [.read 0x1684#16 4] }) = some .busUnmapped := by decide +kernel

/-- R260: reset clears STATUS and keeps the tables. -/
theorem test_reset_event :
    (after (step { raise ⟨.notSeeded, 0x32#32⟩ exState with host := [.reset] })).status.word = 0#32 ∧
      (after (step { raise ⟨.notSeeded, 0x32#32⟩ exState with host := [.reset] })).cfg.symTable[63] =
        (0x4C#8, 0x5A#8) := by decide +kernel

/-- The host's word runs as the very next step. -/
theorem test_withFetchWord : (after (step (State.reset.withFetchWord 32 0x32))).res = 0x32#32 := by decide +kernel

/-- EXCFG meets the constraints of R7, R8 and R9. -/
theorem test_exConfig_valid : exConfig.Valid := by decide +kernel

/-! ### Witnesses: a state and operands that meet every hypothesis of a statement together -/

/-- A reader or writer on PRM with its last unit free and `n` bits held. -/
def exStream (n : BitVec 6) (acc : BitVec 64) : BitStream :=
  { openStream 6#4 .prm 30#8 1#8 with n := n, acc := acc }

theorem exStream_inv : (exStream 5#6 0x1F#64).Inv ∧ (exStream 0#6 0#64).Inv :=
  ⟨⟨by decide, by decide, by decide, by decide, by decide⟩, ⟨by decide, by decide, by decide, by decide, by decide⟩⟩

/-- A generator just seeded to zeros, and one about to wrap its first cursor. -/
def exGen (c1 : Fin 56) : Gen := { st := Vector.replicate 56 0#32, c1 := c1, c2 := 31 }

theorem exGen_inv : (exGen 0).Inv true ∧ (exGen 55).Inv true :=
  ⟨⟨by decide, by decide +kernel, by decide⟩, ⟨by decide, by decide +kernel, by decide⟩⟩

/-- A state with a password in TXT: "AV" 30 times is thirty codes 0. -/
theorem exState_spells : (withText (avs 30) exState).Spells (Vector.replicate 30 0#6) :=
  ⟨by decide +kernel, by decide +kernel, by decide +kernel⟩

theorem witness_EncodeReadsBackDecode : decode 0x16011860#32 = .ok (.brinit 8#4 .frm 1#8 22#8) := by decide

theorem witness_WordIsCommandWhenMaskMatches :
    (Opcode.brinit, 0x00000060#32, 0x0000E0FF#32) ∈ opcodeMap ∧
      0xFFFF1F60#32 &&& 0x0000E0FF#32 = 0x00000060#32 ∧ 0x00002060#32 &&& 0x0000E0FF#32 ≠ 0x00000060#32 := by decide

theorem witness_StepRunsDecodedCommand : decode 0x00000032#32 = .ok .pnext := by decide

theorem witness_OtherWordsRaiseIllegalCommand :
    (∀ row ∈ opcodeMap, 0x00000005#32 &&& row.2.2 ≠ row.2.1) ∧
      ∀ row ∈ opcodeMap, 0x00000100#32 &&& row.2.2 ≠ row.2.1 := by decide

theorem witness_IdleStepWaits : exState.host = [] := rfl

theorem witness_HostWriteToReadOnlyIgnored :
    Loc.status.readOnly = true ∧ (Loc.st 55).readOnly = true ∧ (Loc.crcTable 255).readOnly = true := by decide

/-- A legal access of the first and of the last mapped address, and one of each bus error. -/
theorem witness_StepRefusesOnlyBusErrors :
    (HostEvent.read 0x0000#16 4).Legal ∧ (HostEvent.write 0x27FC#16 4 0#32).Legal ∧
      ¬ (HostEvent.read 0x0000#16 3).Legal ∧ ¬ (HostEvent.read 0x0002#16 4).Legal :=
  ⟨⟨rfl, rfl, .cmd, rfl⟩, ⟨rfl, rfl, .crcTable 255, rfl⟩, fun h => absurd h.1 (by decide),
    fun h => absurd h.2.1 (by decide)⟩

theorem witness_LegalAccessesRunSafely :
    ∀ e ∈ ({ exState with host := [.write 0x0000#16 4 0x32#32, .reset] } : State).host, e.Legal := by
  intro e he
  simp only [List.mem_cons, List.not_mem_nil, or_false] at he
  rcases he with rfl | rfl
  · exact ⟨rfl, rfl, .cmd, rfl⟩
  · exact trivial

/-- One failing command for each row of R236 that a command raises (BUF_OVERFLOW and NOT_INIT twice). -/
theorem witness_ErrorsComeFromTheirConditions :
    [errRes (exec .parse exState), errRes (exec .parse (withText (avs 29 ++ [0x4D#8, 0x5A#8]) exState)),
      errRes (exec (.symdec 0x4D#8 0x5A#8) exState), errRes (exec (.cksum 0#8 0#8) exState),
      errRes (exec (.bwwrite 1#8) { exState with opr := 2#32, bw := exStream 5#6 0x1F#64 }),
      errRes (exec .pnext exState), errRes (exec .brmore exState), errRes (exec .bwflush exState),
      errRes (exec (.bwwrite 7#8) { exState with bw := exStream 5#6 0x1F#64 }),
      errRes (exec .bwflush { exState with bw := { exStream 5#6 0x1F#64 with idx := 31#8 } })] =
    [(.invalidLength, 0#32), (.invalidSymbol, 29#32), (.invalidSymbol, 0#32), (.illegalOperand, 0x40#32),
      (.fieldRange, 0x165#32), (.notSeeded, 0x32#32), (.notInit, 0x62#32), (.notInit, 0x66#32),
      (.bufOverflow, 0x765#32), (.bufOverflow, 0x66#32)] := by decide +kernel

theorem witness_IllegalOperandExactly :
    (Instr.brread 33#8).wellFormed = false ∧ 256 < ({ exState with txtlen := 257#9 } : State).txtlen.toNat ∧
      (Instr.brread 32#8).wellFormed = true ∧ ({ exState with txtlen := 256#9 } : State).txtlen.toNat ≤ 256 := by
  decide

/-- A success after a failure, and a failure with STICKY 0 and with STICKY 1. -/
theorem witness_FirstErrorIsKept :
    let s := raise ⟨.notSeeded, 0x32#32⟩ exState
    (after (exec .nop s)).status.err = .ok ∧
      ((after (exec .brmore exState)).status.err ≠ .ok ∧ exState.status.sticky = false) ∧
      (after (exec .brmore s)).status.err ≠ .ok ∧ s.status.sticky = true := by decide

theorem witness_StatusFlagsHaveTheirWriters :
    (∃ t, exec .nop exState = .next t) ∧ Instr.nop ∉ [.ckchk, .ckgen, .decodePw, .encodePw true] :=
  ⟨exec_total _ _, by decide⟩

theorem witness_CommandsKeepHostInputs : ∃ t, exec (.encodePw true) exState = .next t := exec_total _ _

/-- BRMORE writes none of the registers of the statement. -/
theorem witness_RegistersHaveTheirWriters :
    (∃ t, exec .brmore exState = .next t) ∧ (∀ nb, Instr.brmore ≠ .bwwrite nb) ∧
      Instr.brmore ∉ [.parse, .punapply, .decodePw, .encodePw true, .encodePw false] :=
  ⟨exec_total _ _, by simp, by decide⟩

theorem witness_ParseTranslatesPassword :
    (withText (avs 30) exState).cfg.SymTableOk ∧ ∃ codes, (withText (avs 30) exState).Spells codes :=
  ⟨test_exConfig_valid.1, _, exState_spells⟩

/-- TXTLEN = 257; TXTLEN = 256 with 256 characters; the first token, and the last, is in no entry. -/
theorem witness_ParseFailsInOrder :
    256 < ({ exState with txtlen := 257#9 } : State).txtlen.toNat ∧
      (({ exState with txtlen := 256#9 } : State).txtlen.toNat ≤ 256 ∧
        (passwordChars { exState with txtlen := 256#9 }).length ≠ 60) ∧
      ((passwordChars (withText ([0x4D#8, 0x5A#8] ++ avs 29) exState)).length = 60 ∧
        ∀ c : Fin 64, exState.cfg.symTable[c] ≠ passwordToken (withText ([0x4D#8, 0x5A#8] ++ avs 29) exState) 0) ∧
      (passwordChars (withText (avs 29 ++ [0x4D#8, 0x5A#8]) exState)).length = 60 ∧
      (∀ j : Fin 30, j < 29 →
        ∃ c : Fin 64, exState.cfg.symTable[c] = passwordToken (withText (avs 29 ++ [0x4D#8, 0x5A#8]) exState) j.val) ∧
      ∀ c : Fin 64, exState.cfg.symTable[c] ≠ passwordToken (withText (avs 29 ++ [0x4D#8, 0x5A#8]) exState) 29 := by
  decide +kernel

theorem witness_SymdecLooksUpToken :
    exState.cfg.SymTableOk ∧ exState.cfg.symTable[(63 : Fin 64)] = (upper 0x6C#8, upper 0x7A#8) ∧
      ∀ c : Fin 64, exState.cfg.symTable[c] ≠ (upper 0x6D#8, upper 0x7A#8) := by decide +kernel

theorem witness_RenderPlacesTokens :
    ({ exState with sym := Vector.replicate 30 63#6 } : State).sym[(29 : Fin 30)].toNat = (63 : Fin 64).val := by decide

theorem witness_RenderThenParseKeepsSym :
    exState.cfg.SymTableOk ∧ ∃ t, exec .render exState = .next t ∧
      ∃ txt : Vector Byte 256, ∀ o : Fin 65, txt[o.val]? = some t.out[o] := by
  obtain ⟨t, ht⟩ := exec_total .render exState
  refine ⟨test_exConfig_valid.1, t, ht, Vector.ofFn fun i => t.out[i.val]?.getD 0#8, fun o => ?_⟩
  have := o.isLt
  simp [show o.val < 256 by omega]

theorem witness_PunapplyMovesSymbols : exState.cfg.PermOk := test_exConfig_valid.2.1

theorem witness_PermutationsUndoEachOther : exState.cfg.PermOk := test_exConfig_valid.2.1

/-- The widest legal width and window of each buffer; each of the four illegal clauses one past a limit. -/
theorem witness_StreamInitOpensWindow :
    (1 ≤ (6#4).toNat ∧ (6#4).toNat ≤ 8 ∧ (BufSel.prm = .prm → (6#4).toNat ≤ 6) ∧ (0#8).toNat + (31#8).toNat ≤ 31) ∧
      (1 ≤ (8#4).toNat ∧ (8#4).toNat ≤ 8 ∧ (BufSel.frm = .prm → (8#4).toNat ≤ 6) ∧
        (23#8).toNat + (0#8).toNat ≤ 23) ∧
      (0#4).toNat < 1 ∧ 8 < (9#4).toNat ∧ (BufSel.prm = .prm ∧ 6 < (7#4).toNat) ∧ 31 < (1#8).toNat + (31#8).toNat ∧
      23 < (23#8).toNat + (1#8).toNat := by
  decide

/-- NB = 0 and 33; a reader not initialised; NB = 1 and NB = 32 on a reader that holds 5 bits and has one more unit. -/
theorem witness_BrreadTakesNextBits :
    ((0#8).toNat < 1 ∧ 32 < (33#8).toNat) ∧ exState.br.act = false ∧
      1 ≤ (1#8).toNat ∧ (32#8).toNat ≤ 32 ∧ ({ exState with br := exStream 5#6 0x1F#64 } : State).br.act = true ∧
      ({ exState with br := exStream 5#6 0x1F#64 } : State).br.Inv :=
  ⟨by decide, rfl, by decide, by decide, rfl, exStream_inv.1⟩

theorem witness_ReadsReturnConsecutiveFields :
    (Instr.brinit 8#4 .frm 1#8 22#8).wellFormed = true ∧
      ∀ n ∈ [32#8, 1#8] ++ [9#8], 1 ≤ n.toNat ∧ n.toNat ≤ 32 := by decide

theorem witness_BrmoreReportsMore :
    ({ exState with br := exStream 0#6 0#64 } : State).br.act = true ∧ exState.br.act = false := ⟨rfl, rfl⟩

/-- NB = 0 and 33; a writer not initialised; OPR = 2^NB; 7 bits on 5 held are two units with room for one; and 1 bit on
5 held, the widest value, which just fills the last unit. -/
theorem witness_BwwriteStoresFullUnits :
    let s : State := { exState with opr := 1#32, bw := exStream 5#6 0x1F#64 }
    ((0#8).toNat < 1 ∧ 32 < (33#8).toNat) ∧ exState.bw.act = false ∧
      (s.bw.act = true ∧ 2 ^ (1#8).toNat ≤ ({ s with opr := 2#32 } : State).opr.toNat) ∧
      (s.opr.toNat < 2 ^ (7#8).toNat ∧
        s.bw.stop.toNat < s.bw.idx.toNat + (s.bw.n.toNat + (7#8).toNat) / s.bw.w.toNat) ∧
      s.bw.Inv ∧ 1 ≤ (1#8).toNat ∧ (1#8).toNat ≤ 32 ∧ s.opr.toNat < 2 ^ (1#8).toNat ∧
      s.bw.idx.toNat + (s.bw.n.toNat + (1#8).toNat) / s.bw.w.toNat = s.bw.stop.toNat :=
  ⟨by decide, rfl, by decide, by decide, exStream_inv.1, by decide, by decide, by decide, by decide⟩

/-- Each clause: not initialised; no bits held; bits held with a full window; bits held with one element left. -/
theorem witness_BwflushStoresPartialUnit :
    exState.bw.act = false ∧ ((exStream 0#6 0#64).act = true ∧ (exStream 0#6 0#64).n.toNat = 0) ∧
      (let b : BitStream := { exStream 5#6 0x1F#64 with idx := 31#8 }
       b.act = true ∧ 0 < b.n.toNat ∧ b.stop.toNat ≤ b.idx.toNat) ∧
      (exStream 5#6 0x1F#64).act = true ∧ (exStream 5#6 0x1F#64).Inv ∧ 0 < (exStream 5#6 0x1F#64).n.toNat ∧
      (exStream 5#6 0x1F#64).idx.toNat < (exStream 5#6 0x1F#64).stop.toNat :=
  ⟨rfl, by decide, by decide, rfl, exStream_inv.1, by decide, by decide⟩

theorem witness_WrittenFieldsFormTheStream :
    (Instr.bwinit 6#4 .prm 0#8 2#8).wellFormed = true ∧
      (∀ f ∈ ([(0x7FF#32, 11#8), (1#32, 1#8)] : List (Word × Byte)),
        1 ≤ f.2.toNat ∧ f.2.toNat ≤ 32 ∧ f.1.toNat < 2 ^ f.2.toNat) ∧
      fieldBits [(0x7FF#32, 11#8), (1#32, 1#8)] ≤ (6#4).toNat * (2#8).toNat := by
  refine ⟨by decide, fun f hf => ?_, by decide⟩
  simp only [List.mem_cons, List.not_mem_nil, or_false] at hf
  rcases hf with rfl | rfl <;> decide

/-- Before any seeding; right after it; and with C1 about to wrap. -/
theorem witness_PnextGivesNextValue :
    let s : State := { exState with status := exState.status.seed, gen := exGen 0 }
    exState.status.seeded = false ∧ s.status.seeded = true ∧ s.gen.Inv s.status.seeded ∧
      ({ s with gen := exGen 55 } : State).gen.Inv s.status.seeded :=
  ⟨rfl, rfl, exGen_inv.1, exGen_inv.2⟩

theorem witness_ObfuscationUsesTheKeystream :
    ∃ f : Byte → Byte → Byte, (Instr.obfdec = .obfdec ∧ f = fun b k => b - k) := ⟨_, rfl, rfl⟩

/-- The last byte alone, the whole frame, an empty window, and windows one past the end. -/
theorem witness_CksumComputesWindow :
    (1 ≤ (1#8).toNat ∧ (22#8).toNat + (1#8).toNat ≤ 23 ∧ (0#8).toNat + (23#8).toNat ≤ 23) ∧
      (0#8).toNat < 1 ∧ 23 < (22#8).toNat + (2#8).toNat ∧ 23 < (255#8).toNat + (255#8).toNat := by decide

theorem witness_CrcCommandEffects :
    (0xCE : Fin 256).val = (({ exState with crc := 0xFFFFFFFF#32 } : State).crc.toNat ^^^ (0x31#8).toNat) % 256 := by
  decide

/-- A password, and texts on which PARSE fails in each of its three ways. -/
theorem witness_DecodeRunsItsSteps :
    ((withText (avs 30) exState).cfg.SymTableOk ∧ ∃ codes, (withText (avs 30) exState).Spells codes) ∧
      (after (exec .parse { exState with txtlen := 257#9 })).status.err = .illegalOperand ∧
      (after (exec .parse exState)).status.err = .invalidLength ∧
      (after (exec .parse (withText (avs 29 ++ [0x4D#8, 0x5A#8]) exState))).status.err = .invalidSymbol :=
  ⟨⟨test_exConfig_valid.1, _, exState_spells⟩, by decide +kernel, by decide +kernel, by decide +kernel⟩

/-- The second state differs from the first in SYM, FRM, STATUS and TXT[60]; the ENCODE pair differs in CKSUM. -/
theorem witness_PipelinesIgnoreEarlierState :
    let a := withText (avs 30) exState
    let b : State := { raise ⟨.notSeeded, 0#32⟩ a with txt := a.txt.set 60 0x41#8, sym := Vector.replicate 30 1#6 }
    (a.cfg.SymTableOk ∧ (∃ codes, a.Spells codes) ∧ a.cfg = b.cfg ∧ a.txtlen = b.txtlen ∧
      ∀ i : Fin 256, i.val < a.txtlen.toNat → a.txt[i] = b.txt[i]) ∧
      exState.cfg.PermOk ∧ exState.cfg = ({ exState with cksum := 1#8 } : State).cfg ∧
      exState.frm = ({ exState with cksum := 1#8 } : State).frm :=
  ⟨⟨test_exConfig_valid.1, ⟨_, exState_spells⟩, rfl, rfl, by decide +kernel⟩, test_exConfig_valid.2.1, rfl, rfl⟩

theorem witness_EncodeDecodeRoundTrip (g : Bool) :
    exState.cfg.SymTableOk ∧ exState.cfg.PermOk ∧ exState.frm[22] &&& 0xF0#8 = 0#8 ∧
      ∃ t, exec (.encodePw g) exState = .next t ∧
        ∃ txt : Vector Byte 256, ∀ o : Fin 65, txt[o.val]? = some t.out[o] := by
  obtain ⟨t, ht⟩ := exec_total (.encodePw g) exState
  refine ⟨test_exConfig_valid.1, test_exConfig_valid.2.1, by decide, t, ht,
    Vector.ofFn fun i => t.out[i.val]?.getD 0#8, fun o => ?_⟩
  have := o.isLt
  simp [show o.val < 256 by omega]

/-- A seeded state with a reader and a writer in use, about to run PNEXT. -/
theorem witness_StepKeepsInvariant :
    let s : State :=
      { exState with
        status := exState.status.seed, gen := exGen 0, br := exStream 0#6 0#64, bw := exStream 5#6 0x1F#64
        host := [.write 0x0000#16 4 0x32#32] }
    s.Inv ∧ ∃ t, step s = .next t :=
  ⟨⟨⟨by decide, by decide, by decide⟩, exGen_inv.1, exStream_inv.2, exStream_inv.1, .inl rfl⟩, _, rfl⟩

theorem witness_StepKeepsTables : ∃ t, step { exState with host := [.reset] } = .next t := ⟨_, rfl⟩

end Sys2Proof.Tests
end

section
/-! SUPPORT. What a command that succeeds can write, said once for the 30 commands (10_state.md section 3), and the
statements about the writers of STATUS, of the registers and of the buffers that follow from it. -/

namespace Sys2Proof.Machine

/-! ### The conditions under which the commands that can fail succeed -/

section
variable {s t : State}

theorem symdec_ok {t0 t1 : Byte} (h : commandResult (.symdec t0 t1) s = .ok t) :
    ∃ c : Code, t = { s with res := c.setWidth 32 } := by
  simp only [commandResult] at h
  split at h <;> cases h
  exact ⟨_, rfl⟩

theorem pnext_ok (h : commandResult .pnext s = .ok t) :
    s.status.seeded = true ∧ t = { s with res := (nextGen s.gen).1, gen := (nextGen s.gen).2 } := by
  simp only [commandResult] at h
  split at h <;> cases h
  exact ⟨by simpa using ‹¬ (!s.status.seeded) = true›, rfl⟩

theorem cksum_ok {start len : Byte} (h : commandResult (.cksum start len) s = .ok t) :
    t = putCksum (chk (frameWindow s.frm start.toNat len.toNat)) s := by
  simp only [commandResult] at h
  split at h <;> cases h
  rfl

theorem brinit_ok {w : BitVec 4} {buf : BufSel} {start len : Byte}
    (h : commandResult (.brinit w buf start len) s = .ok t) :
    windowWellFormed w buf start len = true ∧ t = { s with br := openStream w buf start len } := by
  simp only [commandResult, windowLegal_eq] at h
  split at h <;> cases h
  exact ⟨‹_›, rfl⟩

theorem bwinit_ok {w : BitVec 4} {buf : BufSel} {start len : Byte}
    (h : commandResult (.bwinit w buf start len) s = .ok t) :
    windowWellFormed w buf start len = true ∧ t = { s with bw := openStream w buf start len } := by
  simp only [commandResult, windowLegal_eq] at h
  split at h <;> cases h
  exact ⟨‹_›, rfl⟩

theorem brread_ok {nb : Byte} (h : commandResult (.brread nb) s = .ok t) :
    bitCountWellFormed nb = true ∧ s.br.act = true ∧ t = takeBits s nb.toNat (filled s nb.toNat) := by
  simp only [commandResult, bitCountLegal_eq] at h
  (repeat' split at h) <;> cases h
  exact ⟨by simpa using ‹¬ (!bitCountWellFormed nb) = true›, by simpa using ‹¬ (!s.br.act) = true›, rfl⟩

theorem brmore_ok (h : commandResult .brmore s = .ok t) :
    t = { s with res := if s.br.hasMore then 1#32 else 0#32 } := by
  simp only [commandResult] at h
  split at h <;> cases h
  rfl

theorem bwwrite_ok {nb : Byte} (h : commandResult (.bwwrite nb) s = .ok t) :
    bitCountWellFormed nb = true ∧ s.bw.act = true ∧ s.opr.toNat < 2 ^ nb.toNat ∧
      s.bw.idx.toNat + unitsCompleted s.bw nb.toNat ≤ s.bw.stop.toNat ∧
      t = storeUnits (unitsCompleted s.bw nb.toNat) (appendOpr s nb.toNat) := by
  simp only [commandResult, bitCountLegal_eq] at h
  (repeat' split at h) <;> cases h
  exact ⟨by simpa using ‹¬ (!bitCountWellFormed nb) = true›, by simpa using ‹¬ (!s.bw.act) = true›,
    by omega, by omega, rfl⟩

/-- BWFLUSH stores the partial unit where one is held (R155). -/
theorem bwflush_ok (h : commandResult .bwflush s = .ok t) :
    s.bw.act = true ∧ (t = s ∨ s.bw.idx.toNat < s.bw.stop.toNat ∧ t = flushUnit s) := by
  simp only [commandResult] at h
  (repeat' split at h) <;> cases h
  · exact ⟨by simpa using ‹¬ (!s.bw.act) = true›, .inr ⟨by omega, rfl⟩⟩
  · exact ⟨by simpa using ‹¬ (!s.bw.act) = true›, .inl rfl⟩

theorem decodePw_ok (h : commandResult .decodePw s = .ok t) :
    ∃ codes, t = decodeTail { s with sym := codes } := by
  simp only [commandResult, decodeBody] at h
  split at h <;> cases h
  obtain ⟨codes, rfl⟩ := parseBody_ok ‹_›
  exact ⟨codes, rfl⟩

/-- A failing command names an error: no row of 60_exceptions.md R236 has code 0. -/
theorem commandResult_error_code {i : Instr} {e : CmdError} (h : commandResult i s = .error e) : e.code ≠ .ok := by
  have parse_code {w : Word} (hp : parseBody w s = .error e) : e.code ≠ .ok := by
    obtain ⟨-, rfl⟩ | ⟨-, -, rfl⟩ | ⟨-, -, _, -, rfl, -⟩ := parseBody_error hp <;> simp
  cases i
  case parse => exact parse_code h
  case decodePw =>
    simp only [commandResult, decodeBody] at h
    split at h <;> cases h
    exact parse_code ‹_›
  all_goals
    simp only [commandResult] at h
    (repeat' split at h) <;> cases h <;> simp [illegalOperand]

end

/-! ### The fields that a successful command writes -/

/-- The fields of `t` that the rules name `i` as a writer of (R24 to R45), over the other fields of `s`. ERR is left to
`succeed`. -/
def written (i : Instr) (s t : State) : State :=
  match i with
  | .nop => s
  | .parse | .punapply => { s with sym := t.sym }
  | .render => { s with out := t.out, outlen := 65#7 }
  | .symdec _ _ | .symenc _ | .crcfin | .brmore => { s with res := t.res }
  | .papply | .pack86 => { s with prm := t.prm }
  | .pack68 => { s with frm := t.frm }
  | .pseedf | .pseedi _ => { s with gen := t.gen, status := s.status.seed }
  | .pnext => { s with gen := t.gen, res := t.res }
  | .obfdec | .obfenc => { s with gen := t.gen, frm := t.frm, status := s.status.seed }
  | .cksum _ _ => { s with cksum := t.cksum, res := t.res }
  | .ckchk => { s with cksum := t.cksum, res := t.res, status := s.status.compared t.status.ckok }
  | .ckgen => { s with cksum := t.cksum, res := t.res, frm := t.frm, status := s.status.compared true }
  | .crcinit | .crcbyte _ => { s with crc := t.crc }
  | .crcsym => { s with crc := t.crc, res := t.res, revive := t.revive }
  | .brinit _ _ _ _ => { s with br := t.br }
  | .brread _ => { s with br := t.br, res := t.res }
  | .bwinit _ _ _ _ => { s with bw := t.bw }
  | .bwwrite _ | .bwflush => { s with bw := t.bw, prm := t.prm, frm := t.frm }
  | .decodePw =>
    { s with
          sym := t.sym, prm := t.prm, frm := t.frm, gen := t.gen, crc := t.crc, revive := t.revive
          cksum := t.cksum, res := t.res, status := s.status.seed.compared t.status.ckok }
  | .encodePw g =>
    { s with
          sym := t.sym, prm := t.prm, frm := t.frm, gen := t.gen, out := t.out, outlen := 65#7
          cksum := if g then t.cksum else s.cksum, res := t.res
          status :=
            { s.status with ckdone := g || s.status.ckdone, ckok := g || s.status.ckok, seeded := true } }
  | .clrerr => { s with status := s.status.clearSticky }

/-- A command that succeeds changes only what `written` takes from its result. -/
theorem eq_written_of_ok {i : Instr} {s t : State} (h : commandResult i s = .ok t) : t = written i s t := by
  cases i
  case parse => obtain ⟨codes, rfl⟩ := parseBody_ok h; rfl
  case symdec => obtain ⟨c, rfl⟩ := symdec_ok h; rfl
  case pnext => obtain ⟨-, rfl⟩ := pnext_ok h; rfl
  case cksum => obtain rfl := cksum_ok h; rfl
  case brinit => obtain ⟨-, rfl⟩ := brinit_ok h; rfl
  case brread => obtain ⟨-, -, rfl⟩ := brread_ok h; rfl
  case brmore => obtain rfl := brmore_ok h; rfl
  case bwinit => obtain ⟨-, rfl⟩ := bwinit_ok h; rfl
  case bwwrite nb =>
    obtain ⟨-, -, -, -, rfl⟩ := bwwrite_ok h
    exact storeUnits_frame (appendOpr s nb.toNat) (unitsCompleted s.bw nb.toNat)
  case bwflush =>
    obtain ⟨-, rfl | ⟨-, rfl⟩⟩ := bwflush_ok h
    · rfl
    · exact flushUnit_frame s
  case decodePw =>
    obtain ⟨codes, rfl⟩ := decodePw_ok h
    obtain ⟨crc, revive, prm, frm, gen, ok, c, e⟩ := decodeTail_frame { s with sym := codes }
    rw [e]; rfl
  case encodePw g =>
    cases h
    obtain ⟨frm, prm, sym, out, gen, e⟩ := encodeBody_frame g s
    rw [e]; cases g <;> rfl
  all_goals cases h; rfl

/-! ### Only the named commands write a field

Each lemma compares one field on the two sides of `t = written i s t`; the cases in front are the field's writers. -/

section
variable {i : Instr} {s t : State}

/-- OPR, TXTLEN, TXT, the tables and the host's fields are in no command's write set (R30, R31, R39, R46). -/
theorem hostInputs_of_written (h : t = written i s t) :
    t.opr = s.opr ∧ t.txtlen = s.txtlen ∧ t.txt = s.txt ∧ t.cfg = s.cfg ∧ t.host = s.host ∧
      t.rdata = s.rdata := by
  cases i
  all_goals
    exact ⟨(congrArg State.opr h :), (congrArg State.txtlen h :), (congrArg State.txt h :), (congrArg State.cfg h :),
      (congrArg State.host h :), (congrArg State.rdata h :)⟩

theorem sym_of_written (h : t = written i s t)
    (hi : i ∉ [.parse, .punapply, .decodePw, .encodePw true, .encodePw false]) : t.sym = s.sym := by
  cases i
  case parse | punapply | decodePw => simp at hi
  case encodePw g => cases g <;> simp at hi
  all_goals exact (congrArg State.sym h :)

theorem prm_of_written (h : t = written i s t)
    (hi : i ∉ [.papply, .pack86, .bwflush, .decodePw, .encodePw true, .encodePw false])
    (hb : ∀ nb, i ≠ .bwwrite nb) : t.prm = s.prm := by
  cases i
  case papply | pack86 | bwflush | decodePw => simp at hi
  case encodePw g => cases g <;> simp at hi
  case bwwrite nb => exact absurd rfl (hb nb)
  all_goals exact (congrArg State.prm h :)

theorem frm_of_written (h : t = written i s t)
    (hi : i ∉ [.pack68, .obfdec, .obfenc, .ckgen, .bwflush, .decodePw, .encodePw true, .encodePw false])
    (hb : ∀ nb, i ≠ .bwwrite nb) : t.frm = s.frm := by
  cases i
  case pack68 | obfdec | obfenc | ckgen | bwflush | decodePw => simp at hi
  case encodePw g => cases g <;> simp at hi
  case bwwrite nb => exact absurd rfl (hb nb)
  all_goals exact (congrArg State.frm h :)

theorem out_of_written (h : t = written i s t) (hi : i ∉ [.render, .encodePw true, .encodePw false]) :
    t.out = s.out ∧ t.outlen = s.outlen := by
  cases i
  case render => simp at hi
  case encodePw g => cases g <;> simp at hi
  all_goals exact ⟨(congrArg State.out h :), (congrArg State.outlen h :)⟩

theorem gen_of_written (h : t = written i s t)
    (hi : i ∉ [.pseedf, .pnext, .obfdec, .obfenc, .decodePw, .encodePw true, .encodePw false])
    (hs : ∀ seed, i ≠ .pseedi seed) : t.gen = s.gen := by
  cases i
  case pseedf | pnext | obfdec | obfenc | decodePw => simp at hi
  case encodePw g => cases g <;> simp at hi
  case pseedi seed => exact absurd rfl (hs seed)
  all_goals exact (congrArg State.gen h :)

theorem br_of_written (h : t = written i s t) (hi : ∀ w buf start len, i ≠ .brinit w buf start len)
    (hr : ∀ nb, i ≠ .brread nb) : t.br = s.br := by
  cases i
  case brinit w buf start len => exact absurd rfl (hi w buf start len)
  case brread nb => exact absurd rfl (hr nb)
  all_goals exact (congrArg State.br h :)

theorem bw_of_written (h : t = written i s t) (hi : ∀ w buf start len, i ≠ .bwinit w buf start len)
    (hb : ∀ nb, i ≠ .bwwrite nb) (hf : i ≠ .bwflush) : t.bw = s.bw := by
  cases i
  case bwinit w buf start len => exact absurd rfl (hi w buf start len)
  case bwwrite nb => exact absurd rfl (hb nb)
  case bwflush => exact absurd rfl hf
  all_goals exact (congrArg State.bw h :)

theorem crc_of_written (h : t = written i s t) (hi : i ∉ [.crcinit, .crcsym, .decodePw])
    (hb : ∀ b, i ≠ .crcbyte b) : t.crc = s.crc := by
  cases i
  case crcinit | crcsym | decodePw => simp at hi
  case crcbyte b => exact absurd rfl (hb b)
  all_goals exact (congrArg State.crc h :)

theorem revive_of_written (h : t = written i s t) (hi : i ∉ [.crcsym, .decodePw]) : t.revive = s.revive := by
  cases i
  case crcsym | decodePw => simp at hi
  all_goals exact (congrArg State.revive h :)

theorem cksum_of_written (h : t = written i s t) (hi : i ∉ [.ckchk, .ckgen, .decodePw, .encodePw true])
    (hc : ∀ a b, i ≠ .cksum a b) : t.cksum = s.cksum := by
  cases i
  case ckchk | ckgen | decodePw => simp at hi
  case cksum a b => exact absurd rfl (hc a b)
  case encodePw g =>
    cases g
    · exact (congrArg State.cksum h :)
    · simp at hi
  all_goals exact (congrArg State.cksum h :)

theorem sticky_of_written (h : t = written i s t) (hi : i ≠ .clrerr) :
    t.status.sticky = s.status.sticky ∧ t.status.firsterr = s.status.firsterr := by
  cases i
  case clrerr => exact absurd rfl hi
  all_goals exact ⟨(congrArg (·.status.sticky) h :), (congrArg (·.status.firsterr) h :)⟩

theorem checkFlags_of_written (h : t = written i s t) (hi : i ∉ [.ckchk, .ckgen, .decodePw, .encodePw true]) :
    t.status.ckdone = s.status.ckdone ∧ t.status.ckok = s.status.ckok := by
  cases i
  case ckchk | ckgen | decodePw => simp at hi
  case encodePw g =>
    cases g
    · exact ⟨(congrArg (·.status.ckdone) h :), (congrArg (·.status.ckok) h :)⟩
    · simp at hi
  all_goals exact ⟨(congrArg (·.status.ckdone) h :), (congrArg (·.status.ckok) h :)⟩

/-- The writers of CKOK set CKDONE with it (R26). -/
theorem ckdone_of_written (h : t = written i s t) (hi : i ∈ [.ckchk, .ckgen, .decodePw, .encodePw true]) :
    t.status.ckdone = true := by
  simp only [List.mem_cons, List.not_mem_nil, or_false] at hi
  obtain rfl | rfl | rfl | rfl := hi
  all_goals exact (congrArg (·.status.ckdone) h :)

theorem seeded_of_written (h : t = written i s t) :
    t.status.seeded = s.status.seeded ∨
      t.status.seeded = true ∧
        (i ∈ [.pseedf, .obfdec, .obfenc, .decodePw] ∨ (∃ seed, i = .pseedi seed) ∨ ∃ g, i = .encodePw g) := by
  cases i
  case pseedf | obfdec | obfenc | decodePw => exact .inr ⟨(congrArg (·.status.seeded) h :), .inl (by simp)⟩
  case pseedi seed => exact .inr ⟨(congrArg (·.status.seeded) h :), .inr (.inl ⟨seed, rfl⟩)⟩
  case encodePw g => exact .inr ⟨(congrArg (·.status.seeded) h :), .inr (.inr ⟨g, rfl⟩)⟩
  all_goals exact .inl (congrArg (·.status.seeded) h :)

end

/-! ### The statements about the writers -/

/-- Settles O20: a success writes within `written`, a failure STATUS and RES only. -/
theorem commandsKeepHostInputs : Obligations.CommandsKeepHostInputs := by
  intro i s u h
  obtain ⟨t, hr, rfl⟩ | ⟨e, -, rfl⟩ := exec_next h
  · exact (hostInputs_of_written (eq_written_of_ok hr) :)
  · exact ⟨rfl, rfl, rfl, rfl, rfl, rfl⟩

/-- Settles O21: each clause is the write set of one field. -/
theorem registersHaveTheirWriters : Obligations.RegistersHaveTheirWriters := by
  intro i s u h
  obtain ⟨t, hr, rfl⟩ | ⟨e, -, rfl⟩ := exec_next h
  · have hw := eq_written_of_ok hr
    exact ⟨(sym_of_written hw :), (prm_of_written hw :), (frm_of_written hw :), (out_of_written hw :),
      (gen_of_written hw :), (br_of_written hw :), (bw_of_written hw :), (crc_of_written hw :), (revive_of_written hw :), (cksum_of_written hw :)⟩
  · simp

/-- Settles O19: a failure keeps the three flags, and a success writes them as `written` names. -/
theorem statusFlagsHaveTheirWriters : Obligations.StatusFlagsHaveTheirWriters := by
  intro i s u h
  obtain ⟨t, hr, rfl⟩ | ⟨e, -, rfl⟩ := exec_next h
  · exact ⟨(checkFlags_of_written (eq_written_of_ok hr) :), (seeded_of_written (eq_written_of_ok hr) :)⟩
  · exact ⟨fun _ => ⟨rfl, rfl⟩, .inl rfl⟩

/-- Settles O18: a success keeps STICKY and FIRSTERR, and a failure names an error code other than 0. -/
theorem firstErrorIsKept : Obligations.FirstErrorIsKept := by
  intro i s u hi h
  obtain ⟨t, hr, rfl⟩ | ⟨e, hr, rfl⟩ := exec_next h
  · exact ⟨fun _ => (sticky_of_written (eq_written_of_ok hr) hi :), fun he => absurd rfl he⟩
  · exact ⟨fun he => absurd he (commandResult_error_code hr), fun _ => ⟨rfl, rfl⟩⟩

end Sys2Proof.Machine
end

section
/-! SUPPORT. The invariant of the machine (10_state.md R49): it holds after reset, each part is kept by each command that
writes it, and a step is a reset, a host access that the invariant does not see, or one command. -/

namespace Sys2Proof.Machine

/-! ### After reset -/

theorem Status.reset_inv : Status.reset.Inv := ⟨by decide, by decide, by decide⟩

theorem Gen.reset_inv : Gen.reset.Inv false := ⟨fun _ => rfl, by decide, by decide⟩

theorem BitStream.reset_inv : BitStream.reset.Inv := ⟨fun _ => rfl, by decide, by decide, by decide, by decide⟩

theorem State.reset_inv : State.reset.Inv :=
  ⟨Status.reset_inv, Gen.reset_inv, BitStream.reset_inv, BitStream.reset_inv, .inl rfl⟩

/-- A reset event differs from State.reset in the tables and the host's list, of which the invariant says nothing. -/
theorem resetState_inv (s : State) : (resetState s).Inv :=
  have ⟨status, gen, br, bw, outlen⟩ := State.reset_inv
  ⟨status, gen, br, bw, outlen⟩

/-! ### The generator (R178) -/

/-- Every element of ST is in 0..0x7FFFFFFE. -/
def StBounded (st : Vector Word 56) : Prop := ∀ i : Fin 56, st[i].toNat < 0x7FFFFFFF

/-- What the seeding loop of R172 keeps: ST and the two numbers that it passes on are bounded. -/
def SeedBounded (a : Vector Word 56 × Word × Word) : Prop :=
  StBounded a.1 ∧ a.2.1.toNat < 0x7FFFFFFF ∧ a.2.2.toNat < 0x7FFFFFFF

theorem seedLoop_bounded {seedp : Word} (h : seedp.toNat < 0x7FFFFFFF) : StBounded (seedLoop seedp) := by
  have start : SeedBounded ((Vector.replicate 56 0#32).set (stIndex 55) seedp, seedp, 1#32) :=
    ⟨bounded_set (fun i => by simp) (stIndex 55) h, h, (by decide : (1#32).toNat < 0x7FFFFFFF)⟩
  have loop := List.foldlRecOn (motive := SeedBounded) (List.range' 1 55) seedStep start
    fun _ ⟨hst, hseedp, hvalue⟩ x _ => seedStep_bounded x hst hseedp hvalue
  exact loop.1

theorem warmPass_bounded {st : Vector Word 56} (h : StBounded st) : StBounded (warmPass st) :=
  List.foldlRecOn _ warmStep h fun _ hst x _ => warmStep_bounded x hst

/-- The generator after SEED(S), for every S. -/
theorem seedGen_inv (seed : BitVec 16) : (seedGen seed).Inv true := by
  have seedp_bound : (prngMseed - seed.setWidth 32).toNat < 0x7FFFFFFF := by
    have := seed.isLt
    rw [prngMseed, BitVec.toNat_sub, BitVec.toNat_setWidth, BitVec.toNat_ofNat]; omega
  have warmed : StBounded (seedGen seed).st := by
    simp only [seedGen]
    exact List.foldlRecOn _ _ (seedLoop_bounded seedp_bound) fun _ hst _ _ => warmPass_bounded hst
  exact ⟨fun h => Bool.noConfusion h, fun _ => warmed, fun _ => .inl ⟨rfl, rfl⟩⟩

/-- The generator after the loop of OBFDEC and OBFENC (R180, R181). -/
theorem combine_inv (f : Byte → Word → Byte) {g : Gen} (frm : Vector Byte 23) (h : g.Inv true) :
    (combine f g frm).1.Inv true :=
  List.foldlRecOn (motive := fun a => a.1.Inv true) _ (combineStep f) h fun _ ha _ _ => nextGen_inv ha

theorem obfuscate_gen_inv (f : Byte → Word → Byte) (s : State) : (obfuscate f s).gen.Inv true := by
  simp only [obfuscate, seedBody_gen]
  exact combine_inv f _ (seedGen_inv (frameSeed s.frm))

theorem decodeTail_gen (s : State) :
    (decodeTail s).gen = (obfuscate subKey (pack68Body (papplyBody (crcsymBody s)))).gen := by
  simp only [decodeTail, ckchkBody_gen, obfdecBody]

theorem encodeBody_gen (g : Bool) (s : State) :
    (encodeBody g s).gen = (obfuscate addKey (if g then ckgenBody s else s)).gen := by
  simp only [encodeBody, renderBody_gen, punapplyBody_gen, pack86Body_gen, obfencBody]

/-- A command that succeeds keeps the generator's part of the invariant. -/
theorem gen_inv_of_ok {i : Instr} {s t : State} (h : s.gen.Inv s.status.seeded) (hr : commandResult i s = .ok t) :
    t.gen.Inv t.status.seeded := by
  have hw := eq_written_of_ok hr
  cases i
  case pseedf => cases hr; exact seedGen_inv (frameSeed s.frm)
  case pseedi seed => cases hr; exact seedGen_inv seed
  case pnext =>
    obtain ⟨hs, rfl⟩ := pnext_ok hr
    rw [hs] at h
    simpa only [hs] using nextGen_inv h
  case obfdec => cases hr; exact obfuscate_gen_inv subKey s
  case obfenc => cases hr; exact obfuscate_gen_inv addKey s
  case decodePw =>
    obtain ⟨codes, rfl⟩ := decodePw_ok hr
    rw [(congrArg (·.status.seeded) hw :), decodeTail_gen]
    exact obfuscate_gen_inv subKey _
  case encodePw g =>
    cases hr
    rw [(congrArg (·.status.seeded) hw :), encodeBody_gen]
    exact obfuscate_gen_inv addKey _
  all_goals
    have hg : t.gen = s.gen := (congrArg State.gen hw :)
    have hs : t.status.seeded = s.status.seeded := (congrArg (·.status.seeded) hw :)
    rwa [hg, hs]

/-! ### The bit streams (R45) -/

/-- BRINIT and BWINIT with legal operands (R148, R153). -/
theorem openStream_inv {w : BitVec 4} {buf : BufSel} {start len : Byte}
    (h : windowWellFormed w buf start len = true) : (openStream w buf start len).Inv := by
  simp only [windowWellFormed, Bool.and_eq_true, Bool.or_eq_true, bne_iff_ne, decide_eq_true_eq] at h
  obtain ⟨⟨⟨w1, w8⟩, wprm⟩, hwin⟩ := h
  have hlen := bufSel_length_le buf
  refine ⟨fun h => Bool.noConfusion h, fun _ => ⟨w1, w8, fun hb => ?_⟩, fun _ => ?_, fun _ => w1, Nat.one_pos⟩
  · exact wprm.resolve_left fun hne => hne hb
  · simp only [openStream, BitVec.toNat_add]
    omega

/-- Taking `nb` bits from a reader that has been filled for them (R149). -/
theorem takeBits_br_inv {s : State} {nb : Nat} {b : BitStream} (h : b.Sound) (ha : b.act = true)
    (hn : b.n.toNat < nb + b.w.toNat) : (takeBits s nb b).br.Inv := by
  have hn64 := b.n.isLt
  have en : (BitVec.ofNat 6 (b.n.toNat - nb)).toNat = b.n.toNat - nb := by simp; omega
  have hacc := h.acc
  refine ⟨fun h => Bool.noConfusion (ha.symm.trans h), fun _ => h.width, fun _ => h.window, fun _ => ?_, ?_⟩
  · have := h.width
    simp only [takeBits, en]; omega
  · simp only [takeBits, en, BitVec.toNat_ushiftRight, Nat.shiftRight_eq_div_pow]
    refine Nat.div_lt_of_lt_mul (hacc.trans_le ?_)
    rw [← Nat.pow_add]
    exact Nat.pow_le_pow_right two_pos (by omega)

/-- The legal bit counts (R149, R154). -/
theorem bitCountWellFormed_le {nb : Byte} (h : bitCountWellFormed nb = true) : nb.toNat ≤ 32 := by
  simp only [bitCountWellFormed, Bool.and_eq_true, decide_eq_true_eq] at h
  exact h.2

/-- BRREAD keeps the reader's part of the invariant. -/
theorem brread_inv {s : State} {nb : Byte} (h : s.br.Inv) (ha : s.br.act = true) (hnb : nb.toNat ≤ 32) :
    (takeBits s nb.toNat (filled s nb.toNat)).br.Inv := by
  obtain ⟨hs, -, -, ew, -, ea, -, hn⟩ := fill_spec s nb.toNat hnb _ s.br (h.sound ha) le_rfl
  refine takeBits_br_inv hs (ea.trans ha) ?_
  have := h.bits ha
  rw [filled, ew]
  omega

/-- OPR with at most `nb` bits above the valid bits of a writer (R154). -/
theorem appendOpr_sound {s : State} {nb : Nat} (h : s.bw.Sound) (hn : s.bw.n.toNat ≤ 8) (hnb : nb ≤ 32)
    (hopr : s.opr.toNat < 2 ^ nb) : (appendOpr s nb).bw.Sound := by
  obtain ⟨hw, hwin, hacc⟩ := h
  obtain ⟨eacc, en⟩ := appendOpr_toNat s nb hnb hn hacc
  refine ⟨hw, hwin, ?_⟩
  rw [eacc, en, Nat.pow_add]
  have := Nat.mul_le_mul_right (2 ^ s.bw.n.toNat) hopr
  rw [Nat.succ_mul, Nat.mul_comm (2 ^ nb)] at this
  omega

/-- Storing every full unit that a writer holds (R154). -/
theorem storeUnits_bw_inv {s : State} {k : Nat} (h : s.bw.Sound) (ha : s.bw.act = true)
    (hle : s.bw.w.toNat * k ≤ s.bw.n.toNat) (hlt : s.bw.n.toNat < s.bw.w.toNat * k + s.bw.w.toNat)
    (hidx : s.bw.idx.toNat + k ≤ s.bw.stop.toNat) : (storeUnits k s).bw.Inv := by
  obtain ⟨hw, ⟨-, hstop⟩, hacc⟩ := h
  have hlen := bufSel_length_le s.bw.buf
  obtain ⟨ebw, -⟩ := storeUnits_spec k s hw hle (hidx.trans hstop)
  have en : (BitVec.ofNat 6 (s.bw.n.toNat - s.bw.w.toNat * k)).toNat = s.bw.n.toNat - s.bw.w.toNat * k := by
    simp; omega
  have eidx : (BitVec.ofNat 8 (s.bw.idx.toNat + k)).toNat = s.bw.idx.toNat + k := by simp; omega
  rw [ebw]
  refine ⟨fun h => Bool.noConfusion (ha.symm.trans h), fun _ => hw, fun _ => ⟨eidx.trans_le hidx, hstop⟩,
    fun _ => ?_, ?_⟩
  · simp only [en]
    omega
  · simp only [en, BitVec.toNat_ofNat]
    refine (Nat.mod_le _ _).trans_lt (Nat.div_lt_of_lt_mul ?_)
    rwa [← Nat.pow_add, Nat.add_sub_cancel' hle]

/-- BWWRITE keeps the writer's part of the invariant: the units that the new bits complete leave the accumulator, and
less than one unit stays (R154). -/
theorem bwwrite_inv {s : State} {nb : Nat} (h : s.bw.Inv) (ha : s.bw.act = true) (hnb : nb ≤ 32)
    (hopr : s.opr.toNat < 2 ^ nb) (hidx : s.bw.idx.toNat + unitsCompleted s.bw nb ≤ s.bw.stop.toNat) :
    (storeUnits (unitsCompleted s.bw nb) (appendOpr s nb)).bw.Inv := by
  have hw := h.width ha
  have hn : s.bw.n.toNat ≤ 8 := by have := h.bits ha; omega
  obtain ⟨-, en⟩ := appendOpr_toNat s nb hnb hn h.accBound
  have hle : s.bw.w.toNat * unitsCompleted s.bw nb ≤ s.bw.n.toNat + nb := Nat.mul_div_le ..
  have hlt : s.bw.n.toNat + nb < s.bw.w.toNat * unitsCompleted s.bw nb + s.bw.w.toNat :=
    Nat.lt_mul_div_succ _ (by omega)
  exact storeUnits_bw_inv (appendOpr_sound (h.sound ha) hn hnb hopr) ha (en ▸ hle) (en ▸ hlt) hidx

/-- BWFLUSH empties the accumulator (R155). -/
theorem flushUnit_inv {s : State} (h : s.bw.Inv) (ha : s.bw.act = true) (hi : s.bw.idx.toNat < s.bw.stop.toNat) :
    (flushUnit s).bw.Inv := by
  have hw := h.width ha
  obtain ⟨-, hstop⟩ := h.window ha
  have hlen := bufSel_length_le s.bw.buf
  rw [flushUnit_bw]
  refine ⟨fun h => Bool.noConfusion (ha.symm.trans h), fun _ => hw, fun _ => ?_, fun _ => hw.1, Nat.one_pos⟩
  simp only [BitVec.toNat_add]
  exact ⟨by simp; omega, hstop⟩

/-- A command that succeeds keeps the reader's part of the invariant. -/
theorem br_inv_of_ok {i : Instr} {s t : State} (h : s.br.Inv) (hr : commandResult i s = .ok t) : t.br.Inv := by
  have hw := eq_written_of_ok hr
  cases i
  case brinit => obtain ⟨hwf, rfl⟩ := brinit_ok hr; exact openStream_inv hwf
  case brread nb =>
    obtain ⟨hnb, ha, rfl⟩ := brread_ok hr
    exact brread_inv h ha (bitCountWellFormed_le hnb)
  all_goals
    have hb : t.br = s.br := (congrArg State.br hw :)
    rwa [hb]

/-- A command that succeeds keeps the writer's part of the invariant. -/
theorem bw_inv_of_ok {i : Instr} {s t : State} (h : s.bw.Inv) (hr : commandResult i s = .ok t) : t.bw.Inv := by
  have hw := eq_written_of_ok hr
  cases i
  case bwinit => obtain ⟨hwf, rfl⟩ := bwinit_ok hr; exact openStream_inv hwf
  case bwwrite nb =>
    obtain ⟨hnb, ha, hopr, hidx, rfl⟩ := bwwrite_ok hr
    exact bwwrite_inv h ha (bitCountWellFormed_le hnb) hopr hidx
  case bwflush =>
    obtain ⟨ha, rfl | ⟨hi, rfl⟩⟩ := bwflush_ok hr
    · exact h
    · exact flushUnit_inv h ha hi
  all_goals
    have hb : t.bw = s.bw := (congrArg State.bw hw :)
    rwa [hb]

/-! ### STATUS and OUTLEN -/

/-- A command that succeeds keeps the invariant of STATUS (R26, R28). -/
theorem status_inv_of_ok {i : Instr} {s t : State} (h : s.status.Inv) (hr : commandResult i s = .ok t) :
    (succeed t).status.Inv := by
  have hw := eq_written_of_ok hr
  refine ⟨fun he => absurd rfl he, ?_, fun hok => ?_⟩
  · rw [succeed_sticky, succeed_firsterr]
    by_cases hi : i = .clrerr
    · subst hi; cases hr; simp [Status.clearSticky]
    · obtain ⟨hs, hf⟩ := sticky_of_written hw hi
      rw [hs, hf]; exact h.stickyFirst
  · rw [succeed_ckok] at hok
    rw [succeed_ckdone]
    by_cases hi : i ∈ [.ckchk, .ckgen, .decodePw, .encodePw true]
    · exact ckdone_of_written hw hi
    · obtain ⟨hd, hk⟩ := checkFlags_of_written hw hi
      rw [hd]; exact h.okDone (hk ▸ hok)

/-- RENDER and ENCODE leave OUTLEN = 65; no other command writes it (R32). -/
theorem outlen_of_written {i : Instr} {s t : State} (h : t = written i s t) :
    t.outlen = s.outlen ∨ t.outlen = 65#7 := by
  cases i
  case render | encodePw => exact .inr (congrArg State.outlen h :)
  all_goals exact .inl (congrArg State.outlen h :)

/-! ### One command -/

theorem succeed_inv_of_ok {i : Instr} {s t : State} (h : s.Inv) (hr : commandResult i s = .ok t) : (succeed t).Inv where
  status := status_inv_of_ok h.status hr
  gen := (gen_inv_of_ok h.gen hr :)
  br := (br_inv_of_ok h.br hr :)
  bw := (bw_inv_of_ok h.bw hr :)
  outlen := by
    obtain ho | ho := outlen_of_written (eq_written_of_ok hr)
    · rw [succeed_outlen, ho]; exact h.outlen
    · exact .inr ho

/-- The error effects keep the invariant: STICKY goes with a first error (R238). -/
theorem raise_inv {s : State} {e : CmdError} (h : s.Inv) (he : e.code ≠ .ok) : (raise e s).Inv := by
  refine ⟨⟨fun _ => rfl, ?_, h.status.okDone⟩, h.gen, h.br, h.bw, h.outlen⟩
  rw [raise_sticky, raise_firsterr]
  by_cases hs : s.status.sticky = true
  · simpa [hs] using h.status.stickyFirst.1 hs
  · simpa [hs] using he

theorem exec_inv {i : Instr} {s u : State} (h : s.Inv) (hx : exec i s = .next u) : u.Inv := by
  obtain ⟨t, hr, rfl⟩ | ⟨e, hr, rfl⟩ := exec_next hx
  · exact succeed_inv_of_ok h hr
  · exact raise_inv h (commandResult_error_code hr)

/-! ### One step -/

/-- A word written to CMD runs its command, or is no command and raises ILLEGAL_COMMAND (R94, R242). -/
theorem runWord_next {w : Word} {s t : State} (h : runWord w s = .next t) :
    (∃ i, exec i s = .next t) ∨ t = raise { code := .illegalCommand, info := w } s := by
  unfold runWord at h
  split at h
  · exact .inl ⟨_, h⟩
  · cases h; exact .inr rfl

/-- What a host access can change without a command, taken from `t`: the locations that the host writes (R63) and the
model's fields for the host. -/
def hostWritten (s t : State) : State :=
  { s with
    opr := t.opr, txtlen := t.txtlen, txt := t.txt, sym := t.sym, prm := t.prm, frm := t.frm
    host := t.host, rdata := t.rdata }

/-- A host write runs a command or writes its location (R63, R64, R66). -/
theorem writeLoc_next {v : Word} {s t : State} {l : Loc} (h : writeLoc v s l = .next t) :
    runWord v s = .next t ∨ t = hostWritten s t := by
  cases l
  case cmd => exact .inl h
  all_goals cases h; exact .inr rfl

/-- Everything one step can do: an access that runs no command, a reset, or a word written to CMD. -/
theorem step_next {s t : State} (h : step s = .next t) :
    t = hostWritten s t ∨ t = resetState { s with host := t.host } ∨
      ∃ w u, u = hostWritten s u ∧ runWord w u = .next t := by
  unfold step serveNext at h
  split at h
  · cases h; exact .inl rfl
  · rename_i e rest _
    cases e with
    | read addr width =>
      simp only [serve] at h
      split at h <;> cases h
      exact .inl rfl
    | write addr width v =>
      simp only [serve] at h
      split at h
      · cases h
      · obtain hrun | ht := writeLoc_next h
        · exact .inr (.inr ⟨v, _, rfl, hrun⟩)
        · exact .inl ht
    | reset => cases h; exact .inr (.inl rfl)

/-- The host writes no field that the invariant speaks of. -/
theorem inv_of_hostWritten {s t : State} (h : s.Inv) (ht : t = hostWritten s t) : t.Inv := by
  rw [ht]
  exact ⟨h.status, h.gen, h.br, h.bw, h.outlen⟩

/-- Settles O57: a step is an access that the invariant does not see, a reset, or one command from such a state. -/
theorem stepKeepsInvariant : Obligations.StepKeepsInvariant := by
  intro s t h hstep
  obtain ht | ht | ⟨w, u, hu, hrun⟩ := step_next hstep
  · exact inv_of_hostWritten h ht
  · rw [ht]; exact resetState_inv _
  · have hui := inv_of_hostWritten h hu
    obtain ⟨i, hx⟩ | rfl := runWord_next hrun
    · exact exec_inv hui hx
    · exact raise_inv hui (by simp)

/-- Settles O58: the host has no writable table, reset keeps them, and no command writes one. -/
theorem stepKeepsTables : Obligations.StepKeepsTables := by
  intro s t hstep
  obtain ht | ht | ⟨w, u, hu, hrun⟩ := step_next hstep
  · exact (congrArg State.cfg ht :)
  · exact (congrArg State.cfg ht :)
  · have hcfg : u.cfg = s.cfg := (congrArg State.cfg hu :)
    obtain ⟨i, hx⟩ | rfl := runWord_next hrun
    · obtain ⟨-, -, -, hkeep, -⟩ := commandsKeepHostInputs i u t hx
      exact hkeep.trans hcfg
    · rw [raise_cfg, hcfg]

/-- Settles O13: State.reset is zero field by field, a buffer element by element. -/
theorem resetValuesAreZero : Obligations.ResetValuesAreZero := by
  have streams : ∀ b ∈ [State.reset.br, State.reset.bw], b = BitStream.reset := by simp [State.reset]
  exact ⟨rfl, rfl, rfl, rfl, rfl, rfl, rfl, rfl, rfl, rfl, fun i => Vector.getElem_replicate i.isLt, streams,
    fun i => Vector.getElem_replicate i.isLt, fun i => Vector.getElem_replicate i.isLt,
    fun i => Vector.getElem_replicate i.isLt, fun i => Vector.getElem_replicate i.isLt,
    fun i => Vector.getElem_replicate i.isLt, rfl, fun _ => rfl⟩

/-- Settles O56, part by part of the state. -/
theorem resetMeetsInvariant : Obligations.ResetMeetsInvariant := State.reset_inv

end Sys2Proof.Machine
end

section
/-! SUPPORT. The host port (20_memory.md section 1): the words that the host reads as sums of their fields, what a host write
keeps, and when a host access is served. -/

namespace Sys2Proof.Machine

/-! ### Packed words (10_state.md R24, R36, R37, R38; 20_memory.md R72) -/

/-- The word `w` is the number `x`, which has no bit at position `hi` or above. -/
structure Packed (w : Word) (x hi : Nat) : Prop where
  value : w.toNat = x
  bound : x < 2 ^ hi

theorem packed_place_zero {n : Nat} (v : BitVec n) (hfit : n ≤ 32) : Packed (place v 0) v.toNat n := by
  refine ⟨?_, v.isLt⟩
  rw [place, BitVec.shiftLeft_zero, BitVec.toNat_setWidth_of_le hfit]

/-- A field placed above the bits of a word adds its value at its position. -/
theorem Packed.or_place {w : Word} {x hi n : Nat} (h : Packed w x hi) (v : BitVec n) (lo : Nat) (hlo : hi ≤ lo)
    (hfit : lo + n ≤ 32) : Packed (w ||| place v lo) (x + 2 ^ lo * v.toNat) (lo + n) := by
  have hx : x < 2 ^ lo := h.bound.trans_le (Nat.pow_le_pow_right two_pos hlo)
  have sum_lt : x + 2 ^ lo * v.toNat < 2 ^ (lo + n) := by
    have := Nat.mul_le_mul_left (2 ^ lo) v.isLt
    rw [Nat.mul_succ] at this
    rw [Nat.pow_add]; omega
  refine ⟨?_, sum_lt⟩
  have field_lt : 2 ^ lo * v.toNat < 2 ^ 32 :=
    (Nat.le_add_left _ x).trans_lt (sum_lt.trans_le (Nat.pow_le_pow_right two_pos hfit))
  have field : (place v lo).toNat = 2 ^ lo * v.toNat := by
    rw [place, BitVec.toNat_shiftLeft, BitVec.toNat_setWidth_of_le (by omega), Nat.shiftLeft_eq, Nat.mul_comm,
      Nat.mod_eq_of_lt field_lt]
  rw [BitVec.toNat_or, h.value, field, Nat.or_comm, ← Nat.two_pow_add_eq_or_of_lt hx, Nat.add_comm]

theorem errCode_toNat (c : ErrCode) : c.code.toNat = errNumber c := by cases c <;> rfl

theorem bufSel_bit_toNat (b : BufSel) : b.bit.toNat = if b = .frm then 1 else 0 := by cases b <;> rfl

theorem status_word_toNat (st : Status) :
    st.word.toNat = errNumber st.err + 2 ^ 4 * st.ckdone.toNat + 2 ^ 5 * st.ckok.toNat + 2 ^ 6 * st.seeded.toNat +
      2 ^ 7 * st.sticky.toNat + 2 ^ 8 * errNumber st.firsterr := by
  have packed := packed_place_zero st.err.code (by decide)
    |>.or_place (BitVec.ofBool st.ckdone) 4 (by decide) (by decide)
    |>.or_place (BitVec.ofBool st.ckok) 5 (by decide) (by decide)
    |>.or_place (BitVec.ofBool st.seeded) 6 (by decide) (by decide)
    |>.or_place (BitVec.ofBool st.sticky) 7 (by decide) (by decide)
    |>.or_place st.firsterr.code 8 (by decide) (by decide)
  simpa only [Status.word, errCode_toNat, BitVec.toNat_ofBool] using packed.value

theorem pcurWord_toNat (g : Gen) : g.pcurWord.toNat = g.c1.val + 2 ^ 8 * g.c2.val := by
  have cursor (c : Fin 56) : (BitVec.ofNat 6 c.val).toNat = c.val := Nat.mod_eq_of_lt (by omega)
  have packed := packed_place_zero (BitVec.ofNat 6 g.c1.val) (by decide)
    |>.or_place (BitVec.ofNat 6 g.c2.val) 8 (by decide) (by decide)
  simpa only [Gen.pcurWord, cursor] using packed.value

/-- The fields of a record below ACT. -/
theorem packed_streamFields (b : BitStream) :
    Packed (place b.idx 0 ||| place b.stop 8 ||| place b.n 16 ||| place b.w 24 ||| place b.buf.bit 28)
      (b.idx.toNat + 2 ^ 8 * b.stop.toNat + 2 ^ 16 * b.n.toNat + 2 ^ 24 * b.w.toNat +
        2 ^ 28 * (if b.buf = .frm then 1 else 0)) 29 := by
  rw [← bufSel_bit_toNat]
  exact packed_place_zero b.idx (by decide)
    |>.or_place b.stop 8 (by decide) (by decide)
    |>.or_place b.n 16 (by decide) (by decide)
    |>.or_place b.w 24 (by decide) (by decide)
    |>.or_place b.buf.bit 28 (by decide) (by decide)

theorem bwstatWord_toNat (b : BitStream) : (bwstatWord b).toNat = streamContent b := by
  have packed := (packed_streamFields b).or_place (BitVec.ofBool b.act) 31 (by decide) (by decide)
  simpa only [bwstatWord, BitStream.statWord, streamContent, BitVec.toNat_ofBool] using packed.value

theorem more_toNat (b : BitStream) : (b.act && b.hasMore).toNat =
    if b.act = true ∧ (b.idx.toNat < b.stop.toNat ∨ 0 < b.n.toNat) then 1 else 0 := by
  rw [Bool.toNat, Bool.cond_eq_ite]; simp [BitStream.hasMore]

/-- MORE stands below ACT, which the model places first. -/
theorem brstatWord_toNat (b : BitStream) : (brstatWord b).toNat = streamContent b +
    2 ^ 30 * (if b.act = true ∧ (b.idx.toNat < b.stop.toNat ∨ 0 < b.n.toNat) then 1 else 0) := by
  have packed := (packed_streamFields b).or_place (BitVec.ofBool (b.act && b.hasMore)) 30 (by decide) (by decide)
    |>.or_place (BitVec.ofBool b.act) 31 (by decide) (by decide)
  have h := packed.value
  rw [BitVec.toNat_ofBool, BitVec.toNat_ofBool, more_toNat, BitVec.or_assoc, BitVec.or_comm (place (.ofBool (_ && _)) _),
    ← BitVec.or_assoc] at h
  rw [streamContent, Nat.add_right_comm]
  exact h

theorem tokenWord_toNat (tok : Token) : (tokenWord tok).toNat = tok.1.toNat + 2 ^ 8 * tok.2.toNat :=
  (packed_place_zero tok.1 (by decide) |>.or_place tok.2 8 (by decide) (by decide)).value

/-! ### A host read (R62, R63) -/

theorem readLoc_toNat (s : State) (l : Loc) : (readLoc s l).toNat = locContent s l := by
  cases l
  case cmd | res | opr | crc | st | crcTable => rfl
  case txtlen | outlen | cksum | revive | txt | sym | prm | frm | out => exact BitVec.toNat_setWidth_of_le (by decide)
  case status => exact status_word_toNat s.status
  case pcur => exact pcurWord_toNat s.gen
  case brstat => exact brstatWord_toNat s.br
  case bwstat => exact bwstatWord_toNat s.bw
  case perm i => exact Nat.mod_eq_of_lt (by omega)
  case symTable c => exact tokenWord_toNat s.cfg.symTable[c]

theorem readLoc_eq_ofNat (s : State) (l : Loc) : readLoc s l = BitVec.ofNat 32 (locContent s l) := by
  rw [← readLoc_toNat, BitVec.ofNat_toNat, BitVec.setWidth_eq]

/-- Settles O8: each location is found at its address, and its word is the sum of its fields. -/
theorem hostReadReturnsContent : Obligations.HostReadReturnsContent := by
  intro s rest l
  rw [step_read, readLoc_eq_ofNat]
  rfl

/-! ### A host write (R63, R64) -/

/-- Settles O9: a write at a location's address is a write of the location, at its width. -/
theorem hostWriteKeepsLowBits : Obligations.HostWriteKeepsLowBits := by
  intro s rest v
  simp only [BitVec.ofNat_toNat]
  exact ⟨step_write s rest v .opr, step_write s rest v .txtlen, fun i => step_write s rest v (.txt i),
    fun i => step_write s rest v (.sym i), fun i => step_write s rest v (.prm i), fun i => step_write s rest v (.frm i)⟩

theorem writeLoc_readOnly {l : Loc} (h : l.readOnly = true) (v : Word) (s : State) : writeLoc v s l = .next s := by
  cases l
  case cmd | opr | txtlen | txt | sym | prm | frm => exact Bool.noConfusion h
  all_goals rfl

/-- Settles O10: the port ignores a write to a read-only location, and CMD holds nothing to read. -/
theorem hostWriteToReadOnlyIgnored : Obligations.HostWriteToReadOnlyIgnored := by
  intro s rest
  refine ⟨fun l v hl => ?_, step_read s rest .cmd⟩
  rw [step_write, writeLoc_readOnly hl]

/-! ### Legal accesses and bus errors (R61, R65) -/

/-- A word written to CMD ends with a next state and leaves the host's accesses to come (R94). -/
theorem runWord_served (w : Word) (s : State) : ∃ t, runWord w s = .next t ∧ t.host = s.host := by
  unfold runWord
  cases decode w with
  | ok i =>
    obtain ⟨t, ht⟩ := exec_total i s
    obtain ⟨-, -, -, -, hhost, -⟩ := commandsKeepHostInputs i s t ht
    exact ⟨t, ht, hhost⟩
  | error => exact ⟨_, rfl, rfl⟩

theorem writeLoc_served (v : Word) (s : State) (l : Loc) : ∃ t, writeLoc v s l = .next t ∧ t.host = s.host := by
  cases l
  case cmd => exact runWord_served v s
  all_goals exact ⟨_, rfl, rfl⟩

/-- An access that is 4 bytes wide, aligned and mapped names a location. -/
theorem access_of_legal {a : BitVec 16} {width : Nat} (h : width = 4 ∧ a.toNat % 4 = 0 ∧ mappedAddr a) :
    ∃ l, access a width = .ok l := by
  obtain ⟨hw, ha, l, hl⟩ := h
  exact ⟨l, access_ok.2 ⟨hw, ha, hl⟩⟩

/-- Every other access is a bus error. -/
theorem access_of_not_legal {a : BitVec 16} {width : Nat} (h : ¬ (width = 4 ∧ a.toNat % 4 = 0 ∧ mappedAddr a)) :
    ∃ r, access a width = .error r := by
  cases hacc : access a width with
  | error r => exact ⟨r, rfl⟩
  | ok l =>
    obtain ⟨hw, ha, hl⟩ := access_ok.1 hacc
    exact absurd ⟨hw, ha, l, hl⟩ h

theorem serve_of_legal {e : HostEvent} (h : e.Legal) (s : State) : ∃ t, serve e s = .next t ∧ t.host = s.host := by
  cases e with
  | read a width =>
    obtain ⟨l, hacc⟩ := access_of_legal h
    simp only [serve, hacc]
    exact ⟨_, rfl, rfl⟩
  | write a width v =>
    obtain ⟨l, hacc⟩ := access_of_legal h
    simp only [serve, hacc]
    exact writeLoc_served v { s with rdata := none } l
  | reset => exact ⟨_, rfl, rfl⟩

theorem serve_of_not_legal {e : HostEvent} (h : ¬ e.Legal) (s : State) : ∃ r, serve e s = .refused r := by
  cases e with
  | read a width | write a width =>
    obtain ⟨r, hacc⟩ := access_of_not_legal h
    exact ⟨r, by simp only [serve, hacc]⟩
  | reset => exact absurd trivial h

theorem step_of_host_cons {s : State} {e : HostEvent} {rest : List HostEvent} (h : s.host = e :: rest) :
    step s = serve e { s with host := rest } := by
  simp only [step, serveNext, h]

theorem step_of_host_nil {s : State} (h : s.host = []) : step s = .next s := by
  simp only [step, serveNext, h]

/-- Settles O11: a legal access is served, every other access is a bus error, and with none to serve the core waits. -/
theorem stepRefusesOnlyBusErrors : Obligations.StepRefusesOnlyBusErrors := by
  intro s
  constructor
  · rintro ⟨r, hr⟩
    cases hs : s.host with
    | nil => rw [step_of_host_nil hs] at hr; cases hr
    | cons e rest =>
      refine ⟨e, rest, rfl, fun legal => ?_⟩
      obtain ⟨t, ht, -⟩ := serve_of_legal legal { s with host := rest }
      rw [step_of_host_cons hs, ht] at hr
      cases hr
  · rintro ⟨e, rest, hs, illegal⟩
    rw [step_of_host_cons hs]
    exact serve_of_not_legal illegal _

/-- A step from a state whose accesses to come are legal ends in such a state. -/
theorem step_of_legal {s : State} (h : ∀ e ∈ s.host, e.Legal) : ∃ t, step s = .next t ∧ ∀ e ∈ t.host, e.Legal := by
  cases hs : s.host with
  | nil => exact ⟨s, step_of_host_nil hs, h⟩
  | cons e rest =>
    rw [hs, List.forall_mem_cons] at h
    obtain ⟨legal, legal_rest⟩ := h
    obtain ⟨t, ht, hhost⟩ := serve_of_legal legal { s with host := rest }
    exact ⟨t, (step_of_host_cons hs).trans ht, hhost ▸ legal_rest⟩

/-- Settles O12, by induction on the number of steps. -/
theorem legalAccessesRunSafely : Obligations.LegalAccessesRunSafely := by
  intro s legal n
  induction n generalizing s with
  | zero => exact ⟨s, rfl⟩
  | succ n ih =>
    obtain ⟨t, hstep, legal_t⟩ := step_of_legal legal
    obtain ⟨u, hrun⟩ := ih t legal_t
    have hcore : core.step s = .next t := hstep
    exact ⟨u, by simp only [Host.Core.run, hcore, hrun]⟩

end Sys2Proof.Machine
end

section
/-! SUPPORT. The decoder and the encoder undo each other (30_encoding.md R94 to R102): what a field of the command word
reads of an operand placed in it, and the word of a command as its MATCH bits and its operand bits; and what a CMD write
runs. -/

namespace Sys2Proof.Machine

/-! ### Operands in the command word (R95) -/

theorem getLsbD_place {n : Nat} (v : BitVec n) (lo k : Nat) :
    (place v lo).getLsbD k = (decide (k < 32) && decide (lo ≤ k) && v.getLsbD (k - lo)) := by
  simp only [place, BitVec.getLsbD_shiftLeft, BitVec.getLsbD_setWidth, ← Nat.not_lt, decide_not]
  by_cases hk : k < 32
  · simp [hk, show k - lo < 32 by omega]
  · simp [hk]

theorem extractLsb'_place_same {n : Nat} (v : BitVec n) (lo : Nat) (hfit : lo + n ≤ 32) :
    (place v lo).extractLsb' lo n = v := by
  ext k hk
  simp [getLsbD_place, show lo + k < 32 by omega, hk, ← BitVec.getLsbD_eq_getElem]

theorem extractLsb'_place_disjoint {n : Nat} (v : BitVec n) {lo start len : Nat}
    (hapart : lo + n ≤ start ∨ start + len ≤ lo) : (place v lo).extractLsb' start len = 0#len := by
  ext k hk
  have : ¬ lo ≤ start + k ∨ n ≤ start + k - lo := by omega
  obtain h | h := this
  · simp [getLsbD_place, h]
  · simp [getLsbD_place, BitVec.getLsbD_of_ge v _ h]

/-- A field taken from a word and placed where it stood is the word under the field's mask. -/
theorem place_extractLsb' (w : Word) (lo n : Nat) :
    place (w.extractLsb' lo n) lo = w &&& place (BitVec.allOnes n) lo := by
  ext k hk
  simp only [← BitVec.getLsbD_eq_getElem, BitVec.getLsbD_and, getLsbD_place, BitVec.getLsbD_extractLsb',
    BitVec.getLsbD_allOnes]
  by_cases h : lo ≤ k
  · simp [h, hk, Bool.and_comm]
  · simp [h]

/-- A subfield of a field is a field of the word. -/
theorem extractLsb'_extractLsb' (w : Word) {lo n start len : Nat} (hin : start + len ≤ n) :
    (w.extractLsb' lo n).extractLsb' start len = w.extractLsb' (lo + start) len := by
  ext k hk
  simp [show start + k < n by omega, Nat.add_assoc]

/-- A bit of field A is a field of width 1. -/
theorem fieldA_getLsbD (w : Word) {k : Nat} (hk : k < 8) :
    (fieldA w).getLsbD k = (w.extractLsb' (8 + k) 1).getLsbD 0 := by
  simp [fieldA, hk]

theorem ofBool_getLsbD_zero : ∀ v : BitVec 1, BitVec.ofBool (v.getLsbD 0) = v := by decide

theorem bufSel_ofBit_getLsbD_zero (b : BufSel) : BufSel.ofBit (b.bit.getLsbD 0) = b := by cases b <;> rfl

/-! ### Decoding an encoded command -/

/-- No command's word sets a reserved bit (R97). -/
theorem encode_and_mask (i : Instr) : encode i &&& i.opcode.mask = i.opcode.matchWord := by
  cases i
  case symdec t0 t1 => exact Laws.EncodedMatch.symdec t0 t1
  case symenc code => exact Laws.EncodedMatch.symenc code
  case pseedi seed => exact Laws.EncodedMatch.pseedi seed
  case cksum start len => exact Laws.EncodedMatch.cksum start len
  case crcbyte b => exact Laws.EncodedMatch.crcbyte b
  case brinit w buf start len => exact Laws.EncodedMatch.brinit w buf start len
  case brread nb => exact Laws.EncodedMatch.brread nb
  case bwinit w buf start len => exact Laws.EncodedMatch.bwinit w buf start len
  case bwwrite nb => exact Laws.EncodedMatch.bwwrite nb
  case encodePw g => exact Laws.EncodedMatch.encodePw g
  all_goals rfl

/-- The fields of a command's word are its operands (R95, R102). -/
theorem assemble_encode (i : Instr) : i.opcode.assemble (encode i) = i := by
  cases i
  case symdec | symenc | pseedi | cksum | crcbyte | brinit | brread | bwinit | bwwrite | encodePw =>
    simp (disch := omega) only [Opcode.assemble, Instr.opcode, encode, Instr.operandBits, ↓fieldA_getLsbD, fieldA,
      fieldB, fieldC, fieldImm16, extractLsb'_extractLsb', BitVec.extractLsb'_or, extractLsb'_place_same,
      extractLsb'_place_disjoint, BitVec.zero_or, BitVec.or_zero, BitVec.getLsbD_ofBool, decide_true, Bool.true_and,
      bufSel_ofBit_getLsbD_zero]
  all_goals rfl

/-- Settles O1: the word of a command has its opcode, sets no reserved bit, and its fields are the operands. -/
theorem decodeReadsBackEncode : Obligations.DecodeReadsBackEncode := by
  intro i
  rw [decode_of_match (encode_opcode_byte i) (encode_and_mask i), assemble_encode]

/-! ### Encoding a decoded word -/

/-- The operands that the decoder reads are the bits outside MASK. -/
theorem operandBits_assemble (op : Opcode) (w : Word) : (op.assemble w).operandBits = w &&& ~~~op.mask := by
  cases op
  case symdec | symenc | pseedi | cksum | crcbyte | brinit | brread | bwinit | bwwrite | encodePw =>
    simp (disch := omega) only [Opcode.assemble, Instr.operandBits, ↓fieldA_getLsbD, fieldA, fieldB, fieldC,
      fieldImm16, extractLsb'_extractLsb', bufSel_ofBit_bit, ofBool_getLsbD_zero, place_extractLsb',
      ← BitVec.and_or_distrib_left]
    rfl
  all_goals exact BitVec.and_zero.symm

/-- Settles O2: a word that matches a row is MATCH on the bits of MASK and the operands on the others. -/
theorem encodeReadsBackDecode : Obligations.EncodeReadsBackDecode := by
  intro w i h
  obtain ⟨op, -, hmatch, rfl⟩ := decode_ok h
  have opcode_bits : place op.byte 0 = op.matchWord := BitVec.shiftLeft_zero _
  calc
    encode (op.assemble w) = op.matchWord ||| (w &&& ~~~op.mask) := by
      rw [encode, opcode_assemble, opcode_bits, operandBits_assemble]
    _ = w &&& (op.mask ||| ~~~op.mask) := by rw [← hmatch, BitVec.and_or_distrib_left]
    _ = w := by rw [BitVec.or_not_self, BitVec.and_allOnes]

/-! ### The opcode map (R97) -/

theorem opcodeMap_eq : opcodeMap = Opcode.all.map fun op => (op, op.matchWord, op.mask) := by rfl

theorem mem_opcodeMap {row : Opcode × Word × Word} :
    row ∈ opcodeMap ↔ row = (row.1, row.1.matchWord, row.1.mask) := by
  have mem_all (op : Opcode) : op ∈ Opcode.all := by cases op <;> decide
  rw [opcodeMap_eq, List.mem_map]
  constructor
  · rintro ⟨op, -, rfl⟩
    rfl
  · intro h
    exact ⟨row.1, mem_all row.1, h.symm⟩

/-- A word matches an opcode's row exactly when it decodes to a command of the opcode. -/
theorem match_iff_decode (op : Opcode) (w : Word) :
    w &&& op.mask = op.matchWord ↔ ∃ i, decode w = .ok i ∧ i.opcode = op := by
  constructor
  · intro hmatch
    exact ⟨op.assemble w, decode_of_match (opcode_byte_of_match hmatch) hmatch, opcode_assemble op w⟩
  · rintro ⟨i, hdecode, rfl⟩
    obtain ⟨op, -, hmatch, rfl⟩ := decode_ok hdecode
    rwa [opcode_assemble]

/-- Settles O3: the rows are the opcodes with MATCH and MASK as the decoder has them. -/
theorem wordIsCommandWhenMaskMatches : Obligations.WordIsCommandWhenMaskMatches := by
  intro row hrow w
  rw [mem_opcodeMap.1 hrow]
  exact match_iff_decode row.1 w

/-- Settles O4: the words are computed, and each decodes to its command by the round trip. -/
theorem exampleWordsDecode : Obligations.ExampleWordsDecode := by
  intro p hp
  have word : encode p.1 = p.2 := by
    revert p
    decide
  exact ⟨word, word ▸ decodeReadsBackEncode p.1⟩

/-! ### A CMD write (R66, R94) -/

theorem step_write_cmd (s : State) (rest : List HostEvent) (w : Word) :
    step { s with host := .write 0x0000#16 4 w :: rest } = runWord w { s with host := rest, rdata := none } :=
  step_write s rest w .cmd

/-- Settles O5: a CMD write runs the word, and a word that decodes is its command. -/
theorem stepRunsDecodedCommand : Obligations.StepRunsDecodedCommand := by
  intro s rest w i h
  rw [step_write_cmd, runWord, h]

/-- A word that matches no row decodes to no command. -/
theorem decode_error_of_no_match {w : Word} (h : ∀ row ∈ opcodeMap, w &&& row.2.2 ≠ row.2.1) :
    ∃ r, decode w = .error r := by
  cases hd : decode w with
  | error r => exact ⟨r, rfl⟩
  | ok i => exact absurd ((match_iff_decode i.opcode w).2 ⟨i, hd, rfl⟩) (h (i.opcode, _, _) (mem_opcodeMap.2 rfl))

/-- Settles O6: no row matches, so the word decodes to no command, and the CMD write makes the error effects. -/
theorem otherWordsRaiseIllegalCommand : Obligations.OtherWordsRaiseIllegalCommand := by
  intro s rest w h
  obtain ⟨r, hr⟩ := decode_error_of_no_match h
  rw [step_write_cmd, runWord, hr]
  exact congrArg Host.Outcome.next (raise_eq_failed _ _)

end Sys2Proof.Machine
end

section
/-! SUPPORT. The symbol translator (41_symbol_translator.md): the table read by a code, the codes of a text that spells
a password, where RENDER's text has each token and separator, and what PARSE keeps of that text. -/

namespace Sys2Proof.Machine

/-! ### SYM_TABLE by a code (R7, R112) -/

theorem getElem?_symTable_toNat (cfg : Tables) (c : Code) : cfg.symTable[c.toNat]? = some (tokenOf cfg c) :=
  Vector.getElem?_eq_getElem c.isLt

theorem tokenOf_of_toNat_eq (cfg : Tables) {c : Code} {i : Fin 64} (h : c.toNat = i.val) :
    tokenOf cfg c = cfg.symTable[i] := by
  simp only [tokenOf, h, Fin.getElem_fin]

theorem lookup_of_tokenOf {cfg : Tables} {tok : Token} {c : Code} (hv : cfg.SymTableOk)
    (h : tokenOf cfg c = (upper tok.1, upper tok.2)) : lookup cfg tok = some c := by
  simpa using lookup_eq_some ⟨c.toNat, c.isLt⟩ hv h

/-! ### SYMENC and SYMDEC (R116, R117) -/

/-- Settles O26: the token's word is the sum of its two bytes at their places. -/
theorem symencGivesToken : Obligations.SymencGivesToken := by
  intro s c
  have entry : tokenOf s.cfg (BitVec.ofNat 6 c.val) = s.cfg.symTable[c] :=
    tokenOf_of_toNat_eq s.cfg ((BitVec.toNat_ofNat ..).trans (Nat.mod_eq_of_lt c.isLt))
  have word (tok : Token) : tokenWord tok = BitVec.ofNat 32 (tok.1.toNat + 256 * tok.2.toNat) :=
    BitVec.eq_of_toNat_eq ((tokenWord_toNat tok).trans (Nat.mod_eq_of_lt (by omega)).symm)
  rw [exec_of_ok rfl, entry, word]
  rfl

theorem commandResult_symdec_known {s : State} {t0 t1 : Byte} {c : Code} (h : lookup s.cfg (t0, t1) = some c) :
    commandResult (.symdec t0 t1) s = .ok { s with res := c.setWidth 32 } := by
  simp only [commandResult, h]

theorem commandResult_symdec_unknown {s : State} {t0 t1 : Byte} (h : lookup s.cfg (t0, t1) = none) :
    commandResult (.symdec t0 t1) s = .error { code := .invalidSymbol, info := 0#32 } := by
  simp only [commandResult, h]

/-- Settles O25: LOOKUP finds the code of an entry that is the upper-cased token, and nothing where no entry is. -/
theorem symdecLooksUpToken : Obligations.SymdecLooksUpToken := by
  refine fun s t0 t1 hv => ⟨fun c hc => ?_, fun hn => ?_⟩
  · have widened : (BitVec.ofNat 6 c.val).setWidth 32 = BitVec.ofNat 32 c.val :=
      BitVec.setWidth_ofNat_of_le_of_lt (by decide) c.isLt
    rw [exec_of_ok (commandResult_symdec_known (lookup_eq_some c hv hc)), widened]
    rfl
  · rw [exec_of_error (commandResult_symdec_unknown (lookup_eq_none hn)), raise_eq_failed]

/-! ### PARSE of a password (R113) -/

/-- Each token of a password is found, so PARSE stores the code of each. -/
theorem parseBody_of_spells (w : Word) {s : State} {codes : Vector Code 30} (hv : s.cfg.SymTableOk)
    (h : s.Spells codes) : parseBody w s = .ok { s with sym := codes } := by
  have token_count : (pairTokens (passwordChars s)).length = 30 := by rw [pairTokens_length, h.chars]
  have found (j : Nat) (hj : j < (pairTokens (passwordChars s)).length) :
      lookup s.cfg (pairTokens (passwordChars s))[j] = some (codes[j]?.getD 0#6) := by
    have hk : j < 30 := token_count ▸ hj
    obtain ⟨_, token⟩ := List.getElem?_eq_some_iff.1 (pairTokens_passwordChars h.chars hk)
    rw [token, Vector.getElem?_eq_getElem hk]
    apply lookup_of_tokenOf hv
    rw [upper_passwordToken h.chars ⟨j, hk⟩]
    exact Option.some.inj ((getElem?_symTable_toNat ..).symm.trans (h.tokens ⟨j, hk⟩))
  have stored : (Vector.ofFn fun k : Fin 30 => ((List.range 30).map fun j => codes[j]?.getD 0#6).getD k.val 0#6) =
      codes := by
    ext k hk
    simp
  rw [parseBody, strippedText_eq, if_neg (Nat.not_lt.2 h.length), if_neg (not_not.2 h.chars),
    lookupAll_ok _ 0 _ found, token_count]
  simp only [stored]

/-- Settles O23: PARSE stores the codes that the text spells. -/
theorem parseTranslatesPassword : Obligations.ParseTranslatesPassword := by
  intro s codes hv h
  exact exec_of_ok (i := .parse) (parseBody_of_spells _ hv h)

/-! ### The text of RENDER (R114, R115) -/

/-- The table's token of SYM[k]; RENDER asks for k < 30 only. -/
def symToken (cfg : Tables) (sym : Vector Code 30) (k : Nat) : Token := tokenOf cfg sym[Fin.ofNat 30 k]

theorem symToken_val (cfg : Tables) (sym : Vector Code 30) (k : Fin 30) :
    symToken cfg sym k.val = tokenOf cfg sym[k] := by
  simp only [symToken, Fin.ofNat_val_eq_self]

/-- What RENDER writes for token `k`: the separator before it and the token. -/
def renderBlock (cfg : Tables) (sym : Vector Code 30) (k : Nat) : List Byte :=
  separator k ++ renderToken (symToken cfg sym k)

/-- What RENDER writes for the tokens before token `n`. -/
def renderPrefix (cfg : Tables) (sym : Vector Code 30) (n : Nat) : List Byte :=
  (List.range n).flatMap (renderBlock cfg sym)

theorem renderPrefix_thirty (cfg : Tables) (sym : Vector Code 30) : renderPrefix cfg sym 30 = renderText cfg sym := rfl

theorem separator_length (k : Nat) : (separator k).length = if 0 < k ∧ k % 5 = 0 then 1 else 0 := by
  unfold separator
  split_ifs <;> first | rfl | omega

section
variable (cfg : Tables) (sym : Vector Code 30)

theorem renderPrefix_succ (n : Nat) :
    renderPrefix cfg sym (n + 1) = renderPrefix cfg sym n ++ renderBlock cfg sym n := by
  simp only [renderPrefix, List.range_succ, List.flatMap_append, List.flatMap_singleton]

/-- A separator stands before every fifth token but the first. -/
theorem renderPrefix_length (n : Nat) : (renderPrefix cfg sym n).length = 2 * n + (n - 1) / 5 := by
  induction n with
  | zero => rfl
  | succ n ih =>
    rw [renderPrefix_succ, List.length_append, ih, renderBlock, List.length_append, separator_length,
      show (renderToken _).length = 2 from rfl]
    split_ifs <;> omega

theorem renderText_length : (renderText cfg sym).length = 65 := renderPrefix_length cfg sym 30

theorem renderPrefix_isPrefix {k n : Nat} (h : k ≤ n) : renderPrefix cfg sym k <+: renderPrefix cfg sym n := by
  apply List.IsPrefix.flatMap
  rw [← Nat.min_eq_left h, ← List.take_range]
  exact List.take_prefix ..

/-- The bytes that RENDER writes for token `k` stand after those of the tokens before it. -/
theorem getElem?_renderText {k i : Nat} {b : Byte} (hk : k < 30) (h : (renderBlock cfg sym k)[i]? = some b) :
    (renderText cfg sym)[2 * k + (k - 1) / 5 + i]? = some b := by
  have block : (renderPrefix cfg sym (k + 1))[2 * k + (k - 1) / 5 + i]? = some b := by
    rw [renderPrefix_succ, ← renderPrefix_length cfg sym, List.getElem?_append_right (Nat.le_add_right ..),
      Nat.add_sub_cancel_left, h]
  obtain ⟨hi, hb⟩ := List.getElem?_eq_some_iff.1 block
  rw [← hb]
  exact List.prefix_iff_getElem?.1 (renderPrefix_isPrefix cfg sym hk) _ hi

/-- Token `k` stands at 2k + k/5: its separator, if it has one, stands before it. -/
theorem getElem?_renderText_token (k : Fin 30) {i : Nat} {b : Byte}
    (h : (renderToken (tokenOf cfg sym[k]))[i]? = some b) :
    (renderText cfg sym)[2 * k.val + k.val / 5 + i]? = some b := by
  have index : 2 * k.val + k.val / 5 + i = 2 * k.val + (k.val - 1) / 5 + ((separator k.val).length + i) := by
    rw [separator_length]
    split_ifs <;> omega
  rw [index]
  apply getElem?_renderText cfg sym k.isLt
  rw [renderBlock, List.getElem?_append_right (Nat.le_add_right ..), Nat.add_sub_cancel_left, symToken_val, h]

end

theorem renderBody_out_toList (s : State) : (renderBody s).out.toList = renderText s.cfg s.sym := by
  apply List.ext_getElem
  · rw [Vector.length_toList, renderText_length]
  · intro i _ hi
    simp [renderBody, hi]

theorem getElem?_renderBody_out (s : State) (o : Nat) : (renderBody s).out[o]? = (renderText s.cfg s.sym)[o]? := by
  rw [← renderBody_out_toList, Vector.getElem?_toList]

/-- The byte before token `k`, where one stands there. -/
theorem renderBody_out_separator (s : State) {k : Nat} {b : Byte} (hk : k < 30) (hsep : separator k = [b]) :
    (renderBody s).out[2 * k + (k - 1) / 5] = b := by
  have first : (renderBlock s.cfg s.sym k)[0]? = some b := by rw [renderBlock, hsep]; rfl
  obtain ⟨_, hb⟩ := Vector.getElem_of_getElem?
    ((getElem?_renderBody_out s _).trans (getElem?_renderText s.cfg s.sym hk first))
  exact hb

/-- Settles O27: the places of the tokens and of the separators before tokens 5, 10, 20, 25 and 15. -/
theorem renderPlacesTokens : Obligations.RenderPlacesTokens := by
  intro s
  refine ⟨(renderBody s).out, exec_of_ok (i := .render) rfl, fun k c hc => ?_, ?_⟩
  · rw [← tokenOf_of_toNat_eq s.cfg hc, getElem?_renderBody_out, getElem?_renderBody_out]
    exact ⟨getElem?_renderText_token s.cfg s.sym k (i := 0) rfl, getElem?_renderText_token s.cfg s.sym k (i := 1) rfl⟩
  · exact ⟨renderBody_out_separator s (k := 5) (by decide) rfl, renderBody_out_separator s (k := 10) (by decide) rfl,
      renderBody_out_separator s (k := 20) (by decide) rfl, renderBody_out_separator s (k := 25) (by decide) rfl,
      renderBody_out_separator s (k := 15) (by decide) rfl⟩

/-! ### PARSE of the text of RENDER (R118) -/

theorem upper_of_tokenByteOk : ∀ {b : Byte}, tokenByteOk b → upper b = b := by decide

theorem upper_lower_of_tokenByteOk : ∀ {b : Byte}, tokenByteOk b → upper (lower b) = b := by decide

theorem isSpace_lower_of_tokenByteOk : ∀ {b : Byte}, tokenByteOk b → isSpace (lower b) = false := by decide

theorem isSpace_of_tokenByteOk : ∀ {b : Byte}, tokenByteOk b → isSpace b = false := by decide

/-- What PARSE keeps of a text: the characters that are no whitespace, upper-cased. -/
def stripText (text : List Byte) : List Byte := (text.filter fun b => !isSpace b).map upper

theorem passwordChars_eq_stripText (s : State) : passwordChars s = stripText (s.txt.toList.take s.txtlen.toNat) :=
  (strippedText_eq s).symm

theorem stripText_append (l m : List Byte) : stripText (l ++ m) = stripText l ++ stripText m := by
  rw [stripText, List.filter_append, List.map_append]; rfl

theorem stripText_flatMap (f : Nat → List Byte) (l : List Nat) :
    stripText (l.flatMap f) = l.flatMap fun k => stripText (f k) := by
  rw [stripText, List.filter_flatMap, List.map_flatMap]; rfl

theorem stripText_separator (k : Nat) : stripText (separator k) = [] := by
  unfold separator
  split_ifs <;> rfl

theorem stripText_renderToken {tok : Token} (h1 : tokenByteOk tok.1) (h2 : tokenByteOk tok.2) :
    stripText (renderToken tok) = [tok.1, tok.2] := by
  simp [stripText, renderToken, upper_of_tokenByteOk h1, isSpace_of_tokenByteOk h1, isSpace_lower_of_tokenByteOk h2,
    upper_lower_of_tokenByteOk h2]

/-- Stripping the text of RENDER leaves the tokens as the table has them. -/
theorem stripText_renderText {cfg : Tables} (hv : cfg.SymTableOk) (sym : Vector Code 30) :
    stripText (renderText cfg sym) =
      (List.range 30).flatMap fun k => [(symToken cfg sym k).1, (symToken cfg sym k).2] := by
  rw [← renderPrefix_thirty, renderPrefix, stripText_flatMap]
  refine List.flatMap_congr fun k _ => ?_
  obtain ⟨h1, h2⟩ : tokenByteOk (symToken cfg sym k).1 ∧ tokenByteOk (symToken cfg sym k).2 :=
    hv.2 ⟨sym[Fin.ofNat 30 k].toNat, sym[Fin.ofNat 30 k].isLt⟩
  rw [renderBlock, stripText_append, stripText_separator, stripText_renderToken h1 h2, List.nil_append]

theorem pairTokens_flatMap {α : Type} (f : α → Token) (l : List α) :
    pairTokens (l.flatMap fun a => [(f a).1, (f a).2]) = l.map f := by
  induction l with
  | nil => rfl
  | cons a l ih => exact congrArg (f a :: ·) ih

/-- A copy of the rendered text in TXT spells the codes that were rendered (R118). -/
theorem spells_of_rendered {s : State} {sym : Vector Code 30} (hv : s.cfg.SymTableOk) (hlen : s.txtlen.toNat ≤ 256)
    (htxt : s.txt.toList.take s.txtlen.toNat = renderText s.cfg sym) : s.Spells sym := by
  have chars : passwordChars s = (List.range 30).flatMap fun k =>
      [(symToken s.cfg sym k).1, (symToken s.cfg sym k).2] := by
    rw [passwordChars_eq_stripText, htxt, stripText_renderText hv]
  have count : (passwordChars s).length = 60 := by rw [chars]; rfl
  refine ⟨hlen, count, fun k => ?_⟩
  have token := pairTokens_passwordChars count k.isLt
  rw [chars, pairTokens_flatMap (symToken s.cfg sym), List.getElem?_map, List.getElem?_range k.isLt, Option.map_some,
    symToken_val] at token
  exact (getElem?_symTable_toNat ..).trans token

/-- The first 65 bytes of TXT are a copy of OUT. -/
theorem take_of_copied {txt : Vector Byte 256} {out : Vector Byte 65} (h : ∀ o : Fin 65, txt[o.val]? = some out[o]) :
    txt.toList.take 65 = out.toList := by
  apply List.ext_getElem?
  intro o
  rw [List.getElem?_take, Vector.getElem?_toList, Vector.getElem?_toList]
  split_ifs with ho
  · exact (h ⟨o, ho⟩).trans (Vector.getElem?_eq_getElem ho).symm
  · exact (Vector.getElem?_eq_none (Nat.not_lt.1 ho)).symm

/-- Settles O28: the copied text spells the codes in SYM, so PARSE stores them again. -/
theorem renderThenParseKeepsSym : Obligations.RenderThenParseKeepsSym := by
  intro s t txt hv ht hcopy
  obtain rfl : succeed (renderBody s) = t := Host.Outcome.next.inj ht
  have spelled : State.Spells { succeed (renderBody s) with txt := txt, txtlen := 65#9 } s.sym :=
    spells_of_rendered hv (show (65#9).toNat ≤ 256 by decide) ((take_of_copied hcopy).trans (renderBody_out_toList s))
  exact ⟨_, exec_of_ok (i := .parse) (parseBody_of_spells _ hv spelled), rfl, rfl⟩

end Sys2Proof.Machine
end

section
/-! SUPPORT. The Permutation Stage (42_permutation.md): what PAPPLY and PUNAPPLY leave in each element, and that the two
undo each other. -/

namespace Sys2Proof.Machine

/-! ### PAPPLY (R131) -/

theorem getElem?_papplyBody_prm (s : State) (i : Fin 30) :
    (papplyBody s).prm[i.val]? = some s.sym[s.cfg.perm[i]] := by
  have bound : i.val < 31 := by omega
  simp [papplyBody, bound]

theorem papplyBody_prm_last (s : State) : (papplyBody s).prm[30] = s.prm[30] := by
  simp [papplyBody]

/-- PAPPLY ends with ERR = 0 and PRM written (R131). -/
theorem exec_papply (s : State) :
    exec .papply s = .next { s with status := s.okStatus, prm := (papplyBody s).prm } := by
  rw [exec_of_ok rfl, papplyBody_frame]; rfl

/-- Settles O29: the new PRM is that of `papplyBody`. -/
theorem papplyMovesSymbols : Obligations.PapplyMovesSymbols := fun s =>
  ⟨(papplyBody s).prm, exec_papply s, getElem?_papplyBody_prm s, papplyBody_prm_last s⟩

/-! ### PUNAPPLY (R132) -/

/-- The write of element `i` that `unpermuted` makes. -/
def writeUnpermuted (cfg : Tables) (prm : Vector Code 31) (t : Vector Code 30) (i : Nat) : Vector Code 30 :=
  t.set cfg.perm[Fin.ofNat 30 i] prm[Fin.ofNat 31 i]

theorem unpermuted_eq_foldl (cfg : Tables) (prm : Vector Code 31) (t : Vector Code 30) :
    unpermuted cfg prm t = (List.range 30).foldl (writeUnpermuted cfg prm) t := rfl

section
variable {cfg : Tables} {prm : Vector Code 31} {t : Vector Code 30}

theorem getElem?_writeUnpermuted_same (i : Fin 30) :
    some (writeUnpermuted cfg prm t i)[cfg.perm[i]] = prm[i.val]? := by
  have bound : i.val < 31 := by omega
  simp [writeUnpermuted, bound]

/-- The entries of P are distinct, so the write of one element keeps the others (R8). -/
theorem getElem_writeUnpermuted_other (hP : cfg.PermOk) {i : Fin 30} {n : Nat} (hn : n < 30) (hne : i.val ≠ n) :
    (writeUnpermuted cfg prm t n)[cfg.perm[i]] = t[cfg.perm[i]] := by
  have distinct : cfg.perm[Fin.ofNat 30 n] ≠ cfg.perm[i] := fun h => by
    have same := congrArg Fin.val (hP.1 _ _ h)
    rw [Fin.val_ofNat, Nat.mod_eq_of_lt hn] at same
    exact hne same.symm
  exact Vector.getElem_set_ne _ _ (Fin.val_ne_of_ne distinct)

/-- After the first `n` writes the elements before `n` are in their places. -/
theorem getElem?_writeUnpermuted_foldl (hP : cfg.PermOk) {n : Nat} (hn : n ≤ 30) {i : Fin 30} (hi : i.val < n) :
    some ((List.range n).foldl (writeUnpermuted cfg prm) t)[cfg.perm[i]] = prm[i.val]? := by
  induction n with
  | zero => exact absurd hi (Nat.not_lt_zero _)
  | succ n ih =>
    rw [List.range_succ, List.foldl_append, List.foldl_cons, List.foldl_nil]
    by_cases hlast : i.val = n
    · subst hlast
      exact getElem?_writeUnpermuted_same i
    · rw [getElem_writeUnpermuted_other hP hn hlast]
      exact ih (by omega) (by omega)

theorem getElem?_unpermuted (hP : cfg.PermOk) (i : Fin 30) :
    some (unpermuted cfg prm t)[cfg.perm[i]] = prm[i.val]? := by
  rw [unpermuted_eq_foldl]
  exact getElem?_writeUnpermuted_foldl hP le_rfl i.isLt

end

/-- PUNAPPLY ends with ERR = 0 and SYM written (R132). -/
theorem exec_punapply (s : State) :
    exec .punapply s = .next { s with status := s.okStatus, sym := (punapplyBody s).sym } := by
  rw [exec_of_ok rfl, punapplyBody_frame]; rfl

/-- Settles O30: the new SYM is that of `punapplyBody`. -/
theorem punapplyMovesSymbols : Obligations.PunapplyMovesSymbols := fun s hP =>
  ⟨(punapplyBody s).sym, exec_punapply s, fun i => (getElem?_unpermuted hP i).symm⟩

/-! ### The two in a row (R133) -/

/-- P has 30 distinct entries below 30, so every index is one of them (R8). -/
theorem exists_perm_eq {cfg : Tables} (hP : cfg.PermOk) (j : Fin 30) : ∃ i : Fin 30, cfg.perm[i] = j :=
  Finite.surjective_of_injective (f := fun i : Fin 30 => cfg.perm[i]) (fun i k h => hP.1 i k h) j

/-- SYM[P[i]] goes to PRM[i] and back, and P reaches every element of SYM. -/
theorem unpermuted_papplyBody_prm {s : State} (hP : s.cfg.PermOk) :
    unpermuted s.cfg (papplyBody s).prm s.sym = s.sym := by
  apply Vector.ext
  intro j hj
  obtain ⟨i, hij⟩ := exists_perm_eq hP ⟨j, hj⟩
  have back : some (unpermuted s.cfg (papplyBody s).prm s.sym)[s.cfg.perm[i]] = some s.sym[s.cfg.perm[i]] :=
    (getElem?_unpermuted hP i).trans (getElem?_papplyBody_prm s i)
  simpa [hij] using back

theorem punapplyBody_papplyBody_sym {s : State} (hP : s.cfg.PermOk) :
    (punapplyBody (succeed (papplyBody s))).sym = s.sym := by
  simp only [punapplyBody_sym, succeed_cfg, succeed_prm, succeed_sym, papplyBody_cfg, papplyBody_sym,
    unpermuted_papplyBody_prm hP]

/-- PRM[i] goes to SYM[P[i]] and back, and neither command writes PRM[30]. -/
theorem papplyBody_punapplyBody_prm {s : State} (hP : s.cfg.PermOk) :
    (papplyBody (succeed (punapplyBody s))).prm = s.prm := by
  apply Vector.ext
  intro j hj
  obtain hlt | rfl : j < 30 ∨ j = 30 := by omega
  · have moved := getElem?_papplyBody_prm (succeed (punapplyBody s)) ⟨j, hlt⟩
    simp only [succeed_sym, succeed_cfg, punapplyBody_sym, punapplyBody_cfg] at moved
    have back := moved.trans (getElem?_unpermuted hP ⟨j, hlt⟩)
    simpa [hj] using back
  · simp only [papplyBody_prm_last, succeed_prm, punapplyBody_prm]

/-- Two commands that succeed in a row. -/
theorem execAll_two {i j : Instr} {s t u : State} (hi : commandResult i s = .ok t)
    (hj : commandResult j (succeed t) = .ok u) : execAll [i, j] s = .next (succeed u) :=
  (execAll_cons_of_ok hi).trans (execAll_one hj)

/-- Settles O31: the second body undoes the first, and ERR is in neither buffer. -/
theorem permutationsUndoEachOther : Obligations.PermutationsUndoEachOther := fun _ hP =>
  ⟨⟨_, execAll_two rfl rfl, (succeed_sym _).trans (punapplyBody_papplyBody_sym hP)⟩,
    ⟨_, execAll_two rfl rfl, (succeed_prm _).trans (papplyBody_punapplyBody_prm hP)⟩⟩

end Sys2Proof.Machine
end

section
/-! SUPPORT. PACK68 and PACK86 (43_repacker.md section 2): the place of each bit, and that the two undo each other. -/

namespace Sys2Proof.Machine

/-! ### Bits of a repacked sequence (R140, R141) -/

/-- Stream bit `k` is bit `k mod f` of unit `k div f` (R140). -/
theorem testBit_stream_div_mod {f : Nat} {u : List Nat} (hf : 0 < f) (h : ∀ x ∈ u, x < 2 ^ f) (k : Nat) :
    (stream f u).testBit k = (u.getD (k / f) 0).testBit (k % f) := by
  rw [← testBit_stream h (k / f) (k % f) (Nat.mod_lt k hf), Nat.div_add_mod]

theorem getD_map_toNat {n : Nat} (l : List (BitVec n)) (j : Nat) :
    (l.map BitVec.toNat).getD j 0 = (l.getD j 0#n).toNat := by
  rw [← List.getD_map l 0#n BitVec.toNat, BitVec.toNat_ofNat, Nat.zero_mod]

/-- A stream of words has their bits in order. -/
theorem testBit_stream_map_toNat {f : Nat} (hf : 0 < f) (l : List (BitVec f)) (k : Nat) :
    (stream f (l.map BitVec.toNat)).testBit k = (l.getD (k / f) 0#f).getLsbD (k % f) := by
  have bounded : ∀ x ∈ l.map BitVec.toNat, x < 2 ^ f := fun x hx => by
    obtain ⟨v, -, rfl⟩ := List.mem_map.mp hx
    exact v.isLt
  rw [testBit_stream_div_mod hf bounded, getD_map_toNat, BitVec.testBit_toNat]

/-- Bit `b` of unit `m` of a repacked sequence of words. -/
theorem getLsbD_ofNat_repack {f t m b : Nat} (hf : 0 < f) (l : List (BitVec f))
    (hm : m < (l.length * f + (t - 1)) / t) (hb : b < t) :
    (BitVec.ofNat t ((repack (l.map BitVec.toNat) f t).getD m 0)).getLsbD b =
      (l.getD ((t * m + b) / f) 0#f).getLsbD ((t * m + b) % f) := by
  rw [getD_repack (by rwa [List.length_map]), BitVec.getLsbD_ofNat, testBit_unitAt, testBit_stream_map_toNat hf]
  simp [hb]

/-- Two frames with the same 184 bits are equal (R68). -/
theorem frame_ext {f g : Vector Byte 23} (h : ∀ k, k < 184 → frameBit f k = frameBit g k) : f = g := by
  apply Vector.ext
  intro i hi
  apply BitVec.eq_of_getLsbD_eq
  intro b hb
  have same := h (8 * i + b) (by omega)
  simpa [frameBit, show (8 * i + b) / 8 = i by omega, show (8 * i + b) % 8 = b by omega, hi] using same

/-! ### PACK68 (R142, R143) -/

theorem frameBit_pack68Body (s : State) {k : Nat} (hk : k < 184) :
    frameBit (pack68Body s).frm k = if k < 180 then (s.prm[k / 6]?.getD 0#6).getLsbD (k % 6) else false := by
  have hm : k / 8 < 23 := by omega
  have hlen : (s.prm.toList.take 30).length = 30 := by simp
  have moved := getLsbD_ofNat_repack (t := 8) (m := k / 8) (b := k % 8) (by omega) (s.prm.toList.take 30)
    (by omega) (by omega)
  rw [Nat.div_add_mod] at moved
  rw [frameBit, Vector.getElem?_eq_getElem hm, Option.getD_some]
  simp only [pack68Body, Vector.getElem_ofFn, moved]
  split_ifs with h
  · simp [List.getD_eq_getElem?_getD, show k / 6 < 30 by omega, show k / 6 < 31 by omega]
  · simp [List.getD_eq_getElem?_getD, show ¬ k / 6 < 30 by omega]

/-- PACK68 ends with ERR = 0 and FRM written (R142). -/
theorem exec_pack68 (s : State) :
    exec .pack68 s = .next { s with status := s.okStatus, frm := (pack68Body s).frm } := by
  rw [exec_of_ok rfl, pack68Body_frame]; rfl

/-- Settles O32: frame bit `k` is stream bit `k` of PRM[0..29]. -/
theorem pack68MovesBits : Obligations.Pack68MovesBits := fun s =>
  ⟨(pack68Body s).frm, exec_pack68 s, fun _ hk => frameBit_pack68Body s hk⟩

/-! ### PACK86 (R144, R145) -/

theorem getLsbD_pack86Body_prm (s : State) {j b : Nat} (hj : j < 31) (hb : b < 6) :
    (pack86Body s).prm[j].getLsbD b = frameBit s.frm (6 * j + b) := by
  have moved := getLsbD_ofNat_repack (t := 6) (m := j) (by omega) s.frm.toList (by simpa using hj) hb
  rw [List.getD_eq_getElem?_getD (l := s.frm.toList), Vector.getElem?_toList] at moved
  simp only [pack86Body, Vector.getElem_ofFn, moved, frameBit]

/-- The frame has 184 bits (R68). -/
theorem frameBit_of_le (frm : Vector Byte 23) {k : Nat} (hk : 184 ≤ k) : frameBit frm k = false := by
  simp [frameBit, show ¬ k / 8 < 23 by omega]

/-- PRM[30] gets the frame bits 180..183 (R145). -/
theorem pack86Body_prm_last (s : State) : (pack86Body s).prm[30].toNat = s.frm[22].toNat / 16 := by
  have high : (pack86Body s).prm[30] = (s.frm[22] >>> 4).setWidth 6 := by
    apply BitVec.eq_of_getLsbD_eq
    intro b hb
    rw [getLsbD_pack86Body_prm s (by omega) hb]
    by_cases hlt : b < 4
    · simp [frameBit, show (180 + b) / 8 = 22 by omega, show (180 + b) % 8 = 4 + b by omega, hb]
    · rw [frameBit_of_le _ (by omega)]
      simp [show 8 ≤ 4 + b by omega]
  have := s.frm[22].isLt
  rw [high, BitVec.toNat_setWidth, BitVec.toNat_ushiftRight, Nat.shiftRight_eq_div_pow]
  omega

/-- PACK86 ends with ERR = 0 and PRM written (R144). -/
theorem exec_pack86 (s : State) :
    exec .pack86 s = .next { s with status := s.okStatus, prm := (pack86Body s).prm } := by
  rw [exec_of_ok rfl, pack86Body_frame]; rfl

/-- Settles O33: bit `b` of PRM[j] is frame bit `6j + b`, and the frame has none from 184 on. -/
theorem pack86MovesBits : Obligations.Pack86MovesBits := fun s => by
  refine ⟨(pack86Body s).prm, exec_pack86 s, fun j b => ?_, pack86Body_prm_last s⟩
  refine (getLsbD_pack86Body_prm s j.isLt b.isLt).trans ?_
  split_ifs with hk
  · rfl
  · exact frameBit_of_le _ (by omega)

/-! ### The two in a row (R146) -/

theorem pack86Body_pack68Body_prm (s : State) :
    (pack86Body (succeed (pack68Body s))).prm = s.prm.set 30 0#6 := by
  apply Vector.ext
  intro j hj
  apply BitVec.eq_of_getLsbD_eq
  intro b hb
  rw [getLsbD_pack86Body_prm _ hj hb, succeed_frm]
  obtain hlt | rfl : j < 30 ∨ j = 30 := by omega
  · rw [frameBit_pack68Body s (by omega), if_pos (by omega), Vector.getElem_set_ne _ _ (by omega)]
    simp [show (6 * j + b) / 6 = j by omega, show (6 * j + b) % 6 = b by omega, hj]
  · obtain hk | hk : 6 * 30 + b < 184 ∨ 184 ≤ 6 * 30 + b := by omega
    · rw [frameBit_pack68Body s hk, if_neg (by omega)]; simp
    · rw [frameBit_of_le _ hk]; simp

/-- The frame with its padding, bits 180..183, cleared. -/
theorem frameBit_set_padding (frm : Vector Byte 23) {k : Nat} (hk : k < 184) :
    frameBit (frm.set 22 (frm[22] &&& 0x0F#8)) k = if k < 180 then frameBit frm k else false := by
  have low : ∀ b, b < 8 → (0x0F#8).getLsbD b = decide (b < 4) := by decide
  obtain hlt | hlast : k / 8 < 22 ∨ k / 8 = 22 := by omega
  · simp [frameBit, show 22 ≠ k / 8 by omega, show k < 180 by omega]
  · have : k % 8 < 4 ↔ k < 180 := by omega
    simp only [frameBit, hlast, Vector.getElem?_set_self, Option.getD_some, BitVec.getLsbD_and,
      low _ (Nat.mod_lt k (by omega)), this]
    by_cases h : k < 180 <;> simp [h]

theorem pack68Body_pack86Body_frm (s : State) :
    (pack68Body (succeed (pack86Body s))).frm = s.frm.set 22 (s.frm[22] &&& 0x0F#8) := by
  apply frame_ext
  intro k hk
  rw [frameBit_pack68Body _ hk, frameBit_set_padding _ hk, succeed_prm]
  split_ifs with h
  · rw [Vector.getElem?_eq_getElem (by omega), Option.getD_some,
      getLsbD_pack86Body_prm s (by omega) (Nat.mod_lt k (by omega)), Nat.div_add_mod]
  · rfl

theorem and_low_eq_self_iff : ∀ b : Byte, b &&& 0x0F#8 = b ↔ b &&& 0xF0#8 = 0#8 := by decide

/-- Clearing the padding keeps a frame whose padding is 0 already. -/
theorem set_padding_eq_self_iff (frm : Vector Byte 23) :
    frm.set 22 (frm[22] &&& 0x0F#8) = frm ↔ frm[22] &&& 0xF0#8 = 0#8 := by
  rw [← and_low_eq_self_iff]
  constructor
  · intro h
    simpa using congrArg (·[22]) h
  · intro h
    rw [h, Vector.set_getElem_self]

/-- Settles O34: each bit goes to its place and back; the padding has no place in PRM[0..29]. -/
theorem repacksUndoEachOther : Obligations.RepacksUndoEachOther := fun s => by
  refine ⟨⟨_, execAll_two rfl rfl, pack86Body_pack68Body_prm s⟩,
    _, execAll_two rfl rfl, ?_, pack68Body_pack86Body_frm s⟩
  rw [succeed_frm, pack68Body_pack86Body_frm, set_padding_eq_self_iff]

end Sys2Proof.Machine
end

section
/-! SUPPORT. The bit reader (43_repacker.md section 3): BRINIT (with BWINIT, its twin), BRMORE, and BRREAD as the next bits
of the window's stream. -/

namespace Sys2Proof.Machine

/-- A command whose result is an error, with the error effects written out (R238). -/
theorem exec_eq_failed {i : Instr} {s : State} {code : ErrCode} {info : Word}
    (h : commandResult i s = .error ⟨code, info⟩) : exec i s = .next (failed code info s) := by
  rw [exec_of_error h, raise_eq_failed]

theorem ofNat_eq_of_toNat_eq {n m : Nat} {x : BitVec n} (h : x.toNat = m) : BitVec.ofNat n m = x := by
  rw [← h, BitVec.ofNat_toNat, BitVec.setWidth_eq]

/-! ### BRINIT and BWINIT (R148, R153) -/

theorem windowWellFormed_iff (w : BitVec 4) (buf : BufSel) (start len : Byte) :
    windowWellFormed w buf start len = true ↔
      1 ≤ w.toNat ∧ w.toNat ≤ 8 ∧ (buf = .prm → w.toNat ≤ 6) ∧ start.toNat + len.toNat ≤ buf.length := by
  simp only [windowWellFormed, Bool.and_eq_true, Bool.or_eq_true, bne_iff_ne, decide_eq_true_eq, ne_eq,
    ← imp_iff_not_or, and_assoc]

section
variable {w : BitVec 4} {buf : BufSel} {start len : Byte}

theorem commandResult_brinit_of_wellFormed (s : State) (h : windowWellFormed w buf start len = true) :
    commandResult (.brinit w buf start len) s = .ok { s with br := openStream w buf start len } := by
  simp only [commandResult, windowLegal_eq, h, if_true]

theorem commandResult_bwinit_of_wellFormed (s : State) (h : windowWellFormed w buf start len = true) :
    commandResult (.bwinit w buf start len) s = .ok { s with bw := openStream w buf start len } := by
  simp only [commandResult, windowLegal_eq, h, if_true]

theorem commandResult_brinit_of_illegal (s : State) (h : ¬ windowWellFormed w buf start len = true) :
    commandResult (.brinit w buf start len) s = .error (illegalOperand (.brinit w buf start len)) := by
  simp only [commandResult, windowLegal_eq, if_neg h]

theorem commandResult_bwinit_of_illegal (s : State) (h : ¬ windowWellFormed w buf start len = true) :
    commandResult (.bwinit w buf start len) s = .error (illegalOperand (.bwinit w buf start len)) := by
  simp only [commandResult, windowLegal_eq, if_neg h]

theorem openStream_stop : (openStream w buf start len).stop = BitVec.ofNat 8 (start.toNat + len.toNat) :=
  BitVec.add_def ..

/-- END - START of a window inside its buffer is its length. -/
theorem openStream_stop_sub_idx (h : start.toNat + len.toNat ≤ buf.length) :
    (openStream w buf start len).stop.toNat - (openStream w buf start len).idx.toNat = len.toNat := by
  have hlen := bufSel_length_le buf
  rw [openStream_stop, BitVec.toNat_ofNat]
  show _ - start.toNat = _
  omega

end

/-- Settles O35: the legal operands are the well-formed ones, and START + LEN fits END. -/
theorem streamInitOpensWindow : Obligations.StreamInitOpensWindow := by
  intro s w buf start len size opened
  have hsize : size = buf.length := by cases buf <;> rfl
  have hopened : opened = openStream w buf start len := by
    simp only [opened, ← openStream_stop (w := w) (buf := buf)]; rfl
  have hwf := windowWellFormed_iff w buf start len
  rw [hsize, hopened]
  refine ⟨fun w1 w8 wprm hwin => ?_, fun hbad => ?_⟩
  · have legal := hwf.mpr ⟨w1, w8, wprm, hwin⟩
    exact ⟨exec_of_ok (commandResult_brinit_of_wellFormed s legal),
      exec_of_ok (commandResult_bwinit_of_wellFormed s legal)⟩
  · have illegal : ¬ windowWellFormed w buf start len = true := fun h => by
      obtain ⟨w1, w8, wprm, hwin⟩ := hwf.mp h
      obtain hw | hw | ⟨hp, hw⟩ | hw := hbad
      · omega
      · omega
      · exact absurd (wprm hp) (by omega)
      · omega
    exact ⟨exec_eq_failed (commandResult_brinit_of_illegal s illegal),
      exec_eq_failed (commandResult_bwinit_of_illegal s illegal)⟩

/-! ### BRMORE (R151) -/

theorem commandResult_brmore_of_act {s : State} (h : s.br.act = true) :
    commandResult .brmore s = .ok { s with res := if s.br.hasMore then 1#32 else 0#32 } := by
  simp [commandResult, h]

/-- Settles O38: `hasMore` is the condition of R151. -/
theorem brmoreReportsMore : Obligations.BrmoreReportsMore := by
  refine fun s => ⟨fun ha => ?_, fun ha => exec_eq_failed (by simp [commandResult, ha])⟩
  rw [exec_of_ok (commandResult_brmore_of_act ha)]
  simp [succeed, State.okStatus, BitStream.hasMore]

/-! ### The units that a read loads (R149) -/

/-- The turns of the loop of R149: the units that `nb` bits need beyond the bits held, as far as the window has them. -/
def unitsToLoad (nb : Nat) (b : BitStream) : Nat :=
  min (b.stop.toNat - b.idx.toNat) ((nb - b.n.toNat + (b.w.toNat - 1)) / b.w.toNat)

theorem unitsToLoad_eq_zero {nb : Nat} {b : BitStream} (hw : 1 ≤ b.w.toNat)
    (h : ¬ (b.n.toNat < nb ∧ b.idx.toNat < b.stop.toNat)) : unitsToLoad nb b = 0 := by
  obtain hn | hi : nb - b.n.toNat = 0 ∨ b.stop.toNat - b.idx.toNat = 0 := by omega
  · rw [unitsToLoad, hn, Nat.zero_add, Nat.div_eq_of_lt (by omega), Nat.min_zero]
  · rw [unitsToLoad, hi, Nat.zero_min]

/-- A turn of the loop loads one of the units to load. -/
theorem unitsToLoad_loadUnit (s : State) {nb : Nat} {b : BitStream} (h : b.Sound) (hnb : nb ≤ 32)
    (hn : b.n.toNat < nb) (hi : b.idx.toNat < b.stop.toNat) :
    unitsToLoad nb b = unitsToLoad nb (loadUnit s b) + 1 := by
  obtain ⟨-, en, ei⟩ := loadUnit_toNat s b h (by omega) hi
  obtain ⟨⟨hw, -⟩, -⟩ := h
  have ceil : (nb - b.n.toNat + (b.w.toNat - 1)) / b.w.toNat =
      (nb - (b.n.toNat + b.w.toNat) + (b.w.toNat - 1)) / b.w.toNat + 1 := by
    obtain hle | hlt : b.w.toNat ≤ nb - b.n.toNat ∨ nb - b.n.toNat < b.w.toNat := by omega
    · rw [← Nat.add_div_right _ hw]
      congr 1; omega
    · rw [show nb - (b.n.toNat + b.w.toNat) = 0 by omega, Nat.zero_add,
        Nat.div_eq_of_lt (show b.w.toNat - 1 < b.w.toNat by omega)]
      exact Nat.div_eq_of_lt_le (by omega) (by omega)
  have hw' : (loadUnit s b).w = b.w := rfl
  have hstop : (loadUnit s b).stop = b.stop := rfl
  rw [unitsToLoad, unitsToLoad, en, ei, hw', hstop, ceil]
  omega

/-- `c` is the record `b` with `u` more units loaded above the bits held. -/
structure LoadsUnits (s : State) (u : Nat) (b c : BitStream) : Prop where
  idx : c.idx.toNat = b.idx.toNat + u
  n : c.n.toNat = b.n.toNat + b.w.toNat * u
  acc : c.acc.toNat =
    b.acc.toNat + stream b.w.toNat (windowUnits s b.buf b.idx.toNat u b.w.toNat) * 2 ^ b.n.toNat

theorem loadsUnits_zero (s : State) (b : BitStream) : LoadsUnits s 0 b b :=
  ⟨rfl, rfl, by simp [windowUnits, stream]⟩

/-- A turn of the loop of R149, then `u` units more. -/
theorem loadsUnits_succ {s : State} {u : Nat} {b c : BitStream} (hb : b.Sound) (hn : b.n.toNat ≤ 32)
    (hi : b.idx.toNat < b.stop.toNat) (h : LoadsUnits s u (loadUnit s b) c) : LoadsUnits s (u + 1) b c := by
  obtain ⟨ea, en, ei⟩ := loadUnit_toNat s b hb hn hi
  obtain ⟨-, hstop⟩ := hb.window
  obtain ⟨hidx, hnum, hacc⟩ := h
  have hw : (loadUnit s b).w = b.w := rfl
  have hbuf : (loadUnit s b).buf = b.buf := rfl
  rw [ei] at hidx
  rw [en, hw] at hnum
  rw [ea, en, ei, hw, hbuf] at hacc
  refine ⟨by rw [hidx]; ring, by rw [hnum]; ring, ?_⟩
  rw [hacc, windowUnits_cons s b.buf _ u _ (by omega), stream, Nat.shiftLeft_eq, Nat.pow_add]
  ring

/-- The loop of R149 loads the units to load. -/
theorem fill_loadsUnits (s : State) {nb : Nat} (hnb : nb ≤ 32) (k : Nat) (b : BitStream) (h : b.Sound)
    (hk : b.stop.toNat - b.idx.toNat ≤ k) : LoadsUnits s (unitsToLoad nb b) b (fill s nb k b) := by
  have hw := h.width.1
  induction k generalizing b with
  | zero => rw [unitsToLoad_eq_zero hw (by omega)]; exact loadsUnits_zero s b
  | succ k ih =>
    unfold fill
    split_ifs with hc
    · obtain ⟨hn, hi⟩ := hc
      have hn32 : b.n.toNat ≤ 32 := by omega
      obtain ⟨-, -, ei⟩ := loadUnit_toNat s b h hn32 hi
      have hstop : (loadUnit s b).stop = b.stop := rfl
      rw [unitsToLoad_loadUnit s h hnb hn hi]
      exact loadsUnits_succ h hn32 hi (ih _ (loadUnit_sound s b h hn32 hi) (by rw [ei, hstop]; omega) hw)
    · rw [unitsToLoad_eq_zero hw hc]; exact loadsUnits_zero s b

/-- The loop of R149 changes IDX, N and ACC only. -/
theorem fill_frame (s : State) (nb k : Nat) (b : BitStream) :
    fill s nb k b =
      { b with idx := (fill s nb k b).idx, n := (fill s nb k b).n, acc := (fill s nb k b).acc } := by
  induction k generalizing b with
  | zero => rfl
  | succ k ih =>
    unfold fill
    split_ifs
    · exact ih (loadUnit s b)
    · rfl

theorem filled_frame (s : State) (nb : Nat) :
    filled s nb = { s.br with idx := (filled s nb).idx, n := (filled s nb).n, acc := (filled s nb).acc } :=
  fill_frame s nb _ s.br

/-! ### BRREAD (R149) -/

theorem bitCountLegal_of_outside {nb : Byte} (h : nb.toNat < 1 ∨ 32 < nb.toNat) : bitCountLegal nb = false :=
  if_pos h

theorem bitCountLegal_of_range {nb : Byte} (h1 : 1 ≤ nb.toNat) (h32 : nb.toNat ≤ 32) : bitCountLegal nb = true :=
  if_neg (by omega)

theorem commandResult_brread_of_illegal (s : State) {nb : Byte} (h : nb.toNat < 1 ∨ 32 < nb.toNat) :
    commandResult (.brread nb) s = .error (illegalOperand (.brread nb)) := by
  simp [commandResult, bitCountLegal_of_outside h]

section
variable {s : State} {nb : Byte} (h1 : 1 ≤ nb.toNat) (h32 : nb.toNat ≤ 32)
include h1 h32

theorem commandResult_brread_of_closed (ha : s.br.act = false) :
    commandResult (.brread nb) s = .error ⟨.notInit, encode (.brread nb)⟩ := by
  simp [commandResult, bitCountLegal_of_range h1 h32, ha]

theorem commandResult_brread_of_act (ha : s.br.act = true) :
    commandResult (.brread nb) s = .ok (takeBits s nb.toNat (filled s nb.toNat)) := by
  simp [commandResult, bitCountLegal_of_range h1 h32, ha]

end

/-- The state that `takeBits` leaves, on the numbers of the filled record. -/
theorem takeBits_eq (s : State) {nb : Nat} (hnb : nb ≤ 32) (b : BitStream) :
    takeBits s nb b =
      { s with
        res := BitVec.ofNat 32 (b.acc.toNat % 2 ^ nb)
        br := { b with
          n := BitVec.ofNat 6 (b.n.toNat - nb)
          acc := BitVec.ofNat 64 (b.acc.toNat / 2 ^ nb) } } := by
  have hres : (b.acc &&& maskBits 64 nb).setWidth 32 = BitVec.ofNat 32 (b.acc.toNat % 2 ^ nb) := by
    apply BitVec.eq_of_toNat_eq
    rw [BitVec.toNat_setWidth, and_mask64 _ _ (by omega), BitVec.toNat_ofNat]
  have hacc : BitVec.ofNat 64 (b.acc.toNat / 2 ^ nb) = b.acc >>> nb :=
    ofNat_eq_of_toNat_eq (by rw [BitVec.toNat_ushiftRight, Nat.shiftRight_eq_div_pow])
  rw [takeBits, hres, hacc]

/-- Settles O36: the record that the loop of R149 fills holds the units to load, and `takeBits` takes its low bits. -/
theorem brreadTakesNextBits : Obligations.BrreadTakesNextBits := by
  intro s nb
  refine ⟨fun hbad => exec_eq_failed (commandResult_brread_of_illegal s hbad),
    fun h1 h32 ha => exec_eq_failed (commandResult_brread_of_closed h1 h32 ha), fun h1 h32 ha hinv => ?_⟩
  intro w units bits
  obtain ⟨hidx, hn, hacc⟩ := fill_loadsUnits s h32 _ s.br (hinv.sound ha) le_rfl
  have fits : bits = (filled s nb.toNat).acc.toNat := hacc.symm
  have held : s.br.n.toNat + w * units = (filled s nb.toNat).n.toNat := hn.symm
  have moved : BitVec.ofNat 8 (s.br.idx.toNat + units) = (filled s nb.toNat).idx := ofNat_eq_of_toNat_eq hidx
  rw [exec_of_ok (commandResult_brread_of_act h1 h32 ha), takeBits_eq s h32, fits, held, moved, filled_frame]
  rfl

/-! ### Reads one after the other (R150) -/

/-- A read changes neither buffer, so the bits still to come are those of the record alone. -/
theorem pendingBits_takeBits (s : State) (nb : Nat) (b c : BitStream) :
    pendingBits (succeed (takeBits s nb b)) c = pendingBits s c := by
  unfold pendingBits windowUnits
  cases c.buf <;> rfl

theorem takeBits_toNat (s : State) {nb : Nat} (hnb : nb ≤ 32) (b : BitStream) :
    (takeBits s nb b).res.toNat = b.acc.toNat % 2 ^ nb ∧
      (takeBits s nb b).br.n.toNat = b.n.toNat - nb ∧ (takeBits s nb b).br.acc.toNat = b.acc.toNat / 2 ^ nb := by
  have hres : b.acc.toNat % 2 ^ nb < 2 ^ 32 :=
    (Nat.mod_lt _ (Nat.two_pow_pos nb)).trans_le (Nat.pow_le_pow_right two_pos hnb)
  have hn := b.n.isLt
  have hacc := Nat.div_le_self b.acc.toNat (2 ^ nb)
  have hacc64 := b.acc.isLt
  rw [takeBits_eq s hnb]
  simp only [BitVec.toNat_ofNat]
  exact ⟨Nat.mod_eq_of_lt hres, Nat.mod_eq_of_lt (by omega), Nat.mod_eq_of_lt (by omega)⟩

/-- Taking bits from a record that holds them, or all that are left, takes the low bits still to come. -/
theorem takeBits_low_bits (s : State) {nb : Nat} (hnb : nb ≤ 32) {b : BitStream}
    (hfull : nb ≤ b.n.toNat ∨ b.idx.toNat = b.stop.toNat) :
    (takeBits s nb b).res.toNat = pendingBits s b % 2 ^ nb ∧
      pendingBits s (takeBits s nb b).br = pendingBits s b / 2 ^ nb := by
  obtain ⟨hres, hn, hacc⟩ := takeBits_toNat s hnb b
  have hrest : pendingBits s (takeBits s nb b).br = b.acc.toNat / 2 ^ nb +
      stream b.w.toNat (windowUnits s b.buf b.idx.toNat (b.stop.toNat - b.idx.toNat) b.w.toNat) <<<
        (b.n.toNat - nb) := by
    rw [← hn, ← hacc]; rfl
  rw [hres, hrest, pendingBits]
  obtain hle | hend := hfull
  · obtain ⟨d, hd⟩ := Nat.exists_eq_add_of_le hle
    rw [hd, Nat.add_sub_cancel_left, Nat.shiftLeft_eq, Nat.shiftLeft_eq, Nat.pow_add, Nat.mul_left_comm,
      Nat.add_mul_mod_self_left, Nat.add_mul_div_left _ _ (Nat.two_pow_pos nb)]
    exact ⟨rfl, rfl⟩
  · simp [hend, windowUnits, stream]

/-- A read gives the low bits of what the reader has still to give, and the others stay (R149, R150). -/
theorem brread_low_bits {s : State} (h : s.br.Inv) (ha : s.br.act = true) {nb : Nat} (hnb : nb ≤ 32) :
    (takeBits s nb (filled s nb)).res.toNat = pendingBits s s.br % 2 ^ nb ∧
      pendingBits s (takeBits s nb (filled s nb)).br = pendingBits s s.br / 2 ^ nb := by
  obtain ⟨-, hpending, -, -, hstop, -, hfull, -⟩ := fill_spec s nb hnb _ s.br (h.sound ha) le_rfl
  rw [← hpending]
  exact takeBits_low_bits s hnb (by rw [filled, hstop]; exact hfull)

theorem takeBits_filled_act (s : State) (nb : Nat) : (takeBits s nb (filled s nb)).br.act = s.br.act :=
  (congrArg BitStream.act (filled_frame s nb) :)

/-- Reads from an initialised reader: the last one gives the bits after those that the others take. -/
theorem execAll_brread (before : List Byte) (nb : Byte) {s : State} (h : s.br.Inv) (ha : s.br.act = true)
    (hn : ∀ n ∈ before ++ [nb], 1 ≤ n.toNat ∧ n.toNat ≤ 32) :
    ∃ t, execAll ((before ++ [nb]).map Instr.brread) s = .next t ∧
      t.res.toNat = (pendingBits s s.br >>> (before.map BitVec.toNat).sum) % 2 ^ nb.toNat := by
  induction before generalizing s with
  | nil =>
    obtain ⟨h1, h32⟩ := hn nb (by simp)
    exact ⟨_, execAll_one (commandResult_brread_of_act h1 h32 ha), (brread_low_bits h ha h32).1⟩
  | cons n rest ih =>
    obtain ⟨h1, h32⟩ := hn n (by simp)
    obtain ⟨-, hrest⟩ := brread_low_bits h ha h32
    have hok := commandResult_brread_of_act h1 h32 ha
    have hinv := br_inv_of_ok h hok
    obtain ⟨t, hrun, hres⟩ := ih (s := succeed (takeBits s n.toNat (filled s n.toNat))) hinv
      ((takeBits_filled_act s n.toNat).trans ha) fun m hm => hn m (List.mem_cons_of_mem _ hm)
    refine ⟨t, (execAll_cons_of_ok hok).trans hrun, ?_⟩
    rw [hres, pendingBits_takeBits, succeed_br, hrest, List.map_cons, List.sum_cons, Nat.shiftRight_add,
      Nat.shiftRight_eq_div_pow _ n.toNat]

/-- A reader just initialised has the whole window to give (R148). -/
theorem pendingBits_openStream (s : State) (w : BitVec 4) (buf : BufSel) {start len : Byte}
    (h : start.toNat + len.toNat ≤ buf.length) :
    pendingBits s (openStream w buf start len) =
      stream w.toNat (windowUnits s buf start.toNat len.toNat w.toNat) := by
  have hlen := openStream_stop_sub_idx (w := w) h
  rw [pendingBits, hlen]
  simp [openStream]

/-- Settles O37: BRINIT makes the window's stream the bits to give, and each read takes its bits from them. -/
theorem readsReturnConsecutiveFields : Obligations.ReadsReturnConsecutiveFields := by
  intro s w buf start len before nb hwf hn
  obtain ⟨-, -, -, hwin⟩ := (windowWellFormed_iff w buf start len).mp hwf
  obtain ⟨t, hrun, hres⟩ := execAll_brread before nb (s := succeed { s with br := openStream w buf start len })
    (openStream_inv hwf) rfl hn
  refine ⟨t, (execAll_cons_of_ok (commandResult_brinit_of_wellFormed s hwf)).trans hrun, hres.trans ?_⟩
  rw [succeed_br, pendingBits_openStream _ w buf hwin]
  cases buf <;> rfl

end Sys2Proof.Machine
end

section
/-! SUPPORT. The bit writer (43_repacker.md section 4): BWWRITE and BWFLUSH on numbers, and the fields written into a
window as one stream. -/

namespace Sys2Proof.Machine

/-! ### BWWRITE (R154) -/

section
variable {s : State} {nb : Byte}

theorem commandResult_bwwrite_of_illegal (h : nb.toNat < 1 ∨ 32 < nb.toNat) :
    commandResult (.bwwrite nb) s = .error (illegalOperand (.bwwrite nb)) := by
  simp [commandResult, bitCountLegal_of_outside h]

variable (h1 : 1 ≤ nb.toNat) (h32 : nb.toNat ≤ 32)
include h1 h32

theorem commandResult_bwwrite_of_closed (ha : s.bw.act = false) :
    commandResult (.bwwrite nb) s = .error ⟨.notInit, encode (.bwwrite nb)⟩ := by
  simp [commandResult, bitCountLegal_of_range h1 h32, ha]

theorem commandResult_bwwrite_of_wide (ha : s.bw.act = true) (hopr : 2 ^ nb.toNat ≤ s.opr.toNat) :
    commandResult (.bwwrite nb) s = .error ⟨.fieldRange, encode (.bwwrite nb)⟩ := by
  simp [commandResult, bitCountLegal_of_range h1 h32, ha, hopr]

theorem commandResult_bwwrite_of_full (ha : s.bw.act = true) (hopr : s.opr.toNat < 2 ^ nb.toNat)
    (hfull : s.bw.stop.toNat < s.bw.idx.toNat + unitsCompleted s.bw nb.toNat) :
    commandResult (.bwwrite nb) s = .error ⟨.bufOverflow, encode (.bwwrite nb)⟩ := by
  simp [commandResult, bitCountLegal_of_range h1 h32, ha, Nat.not_le.mpr hopr, hfull]

theorem commandResult_bwwrite_of_fits (ha : s.bw.act = true) (hopr : s.opr.toNat < 2 ^ nb.toNat)
    (hfit : s.bw.idx.toNat + unitsCompleted s.bw nb.toNat ≤ s.bw.stop.toNat) :
    commandResult (.bwwrite nb) s =
      .ok (storeUnits (unitsCompleted s.bw nb.toNat) (appendOpr s nb.toNat)) := by
  simp [commandResult, bitCountLegal_of_range h1 h32, ha, Nat.not_le.mpr hopr, Nat.not_lt.mpr hfit]

end

/-- The stores of a write change BW and the selected buffer, OPR above the bits held being what is stored. -/
theorem storeUnits_appendOpr {s : State} (h : s.bw.Inv) (ha : s.bw.act = true) {nb : Nat} (hnb : nb ≤ 32)
    (hfit : s.bw.idx.toNat + unitsCompleted s.bw nb ≤ s.bw.stop.toNat) :
    let units := unitsCompleted s.bw nb
    let bits := s.bw.acc.toNat + s.opr.toNat * 2 ^ s.bw.n.toNat
    let t := storeUnits units (appendOpr s nb)
    t.bw =
        { s.bw with
          idx := BitVec.ofNat 8 (s.bw.idx.toNat + units)
          n := BitVec.ofNat 6 ((s.bw.n.toNat + nb) % s.bw.w.toNat)
          acc := BitVec.ofNat 64 (bits / 2 ^ (s.bw.w.toNat * units)) } ∧
      (s.bw.buf = .prm → t.frm = s.frm) ∧ (s.bw.buf = .frm → t.prm = s.prm) ∧
      ∀ e, (bufferUnits t s.bw.buf)[e]? =
        if s.bw.idx.toNat ≤ e ∧ e < s.bw.idx.toNat + units then
          some (bits / 2 ^ (s.bw.w.toNat * (e - s.bw.idx.toNat)) % 2 ^ s.bw.w.toNat)
        else (bufferUnits s s.bw.buf)[e]? := by
  have hw := h.width ha
  have hn := h.bits ha
  obtain ⟨-, hstop⟩ := h.window ha
  obtain ⟨eacc, en⟩ := appendOpr_toNat s nb hnb (by omega) h.accBound
  intro units bits t
  have stored := storeUnits_spec units (appendOpr s nb) hw (by rw [en]; exact Nat.mul_div_le ..)
    (hfit.trans hstop)
  rw [en, eacc] at stored
  rw [Nat.mod_eq_sub_mul_div]
  exact stored

/-- Settles O39: the checks in the order of R154, then the stores of a write. -/
theorem bwwriteStoresFullUnits : Obligations.BwwriteStoresFullUnits := by
  intro s nb w units bits
  refine ⟨fun hbad => exec_eq_failed (commandResult_bwwrite_of_illegal hbad), fun h1 h32 =>
    ⟨fun ha => exec_eq_failed (commandResult_bwwrite_of_closed h1 h32 ha),
      fun ha hopr => exec_eq_failed (commandResult_bwwrite_of_wide h1 h32 ha hopr),
      fun ha hopr hfull => exec_eq_failed (commandResult_bwwrite_of_full h1 h32 ha hopr hfull),
      fun ha hopr hfit hinv => ?_⟩⟩
  obtain ⟨hbw, hfrm, hprm, hunits⟩ := storeUnits_appendOpr hinv ha h32 hfit
  have hframe := storeUnits_frame (appendOpr s nb.toNat) (unitsCompleted s.bw nb.toNat)
  rw [hbw] at hframe
  refine ⟨(storeUnits units (appendOpr s nb.toNat)).prm, (storeUnits units (appendOpr s nb.toNat)).frm,
    ?_, hfrm, hprm, hunits⟩
  rw [exec_of_ok (commandResult_bwwrite_of_fits h1 h32 ha hopr hfit), hframe]
  rfl

/-! ### BWFLUSH (R155) -/

section
variable {s : State}

theorem commandResult_bwflush_of_closed (ha : s.bw.act = false) :
    commandResult .bwflush s = .error ⟨.notInit, encode .bwflush⟩ := by
  simp [commandResult, ha]

theorem commandResult_bwflush_of_empty (ha : s.bw.act = true) (hn : s.bw.n.toNat = 0) :
    commandResult .bwflush s = .ok s := by
  simp [commandResult, ha, hn]

theorem commandResult_bwflush_of_full (ha : s.bw.act = true) (hn : 0 < s.bw.n.toNat)
    (hi : s.bw.stop.toNat ≤ s.bw.idx.toNat) :
    commandResult .bwflush s = .error ⟨.bufOverflow, encode .bwflush⟩ := by
  simp [commandResult, ha, hn, hi]

theorem commandResult_bwflush_of_fits (ha : s.bw.act = true) (hn : 0 < s.bw.n.toNat)
    (hi : s.bw.idx.toNat < s.bw.stop.toNat) : commandResult .bwflush s = .ok (flushUnit s) := by
  simp [commandResult, ha, hn, Nat.not_le.mpr hi]

end

/-- Between commands a record holds less than one unit (R49). -/
theorem acc_lt_unit_of_inv {b : BitStream} (h : b.Inv) (ha : b.act = true) : b.acc.toNat < 2 ^ b.w.toNat :=
  h.accBound.trans (Nat.pow_lt_pow_right one_lt_two (h.bits ha))

/-- What a flush stores: less than one unit is the low unit already, its high bits 0. -/
theorem lowUnit_of_inv {b : BitStream} (h : b.Inv) (ha : b.act = true) :
    (b.acc &&& maskBits 64 b.w.toNat).setWidth 8 = BitVec.ofNat 8 b.acc.toNat := by
  obtain ⟨-, hw, -⟩ := h.width ha
  refine (ofNat_eq_of_toNat_eq ?_).symm
  rw [lowUnit_toNat _ _ hw, Nat.mod_eq_of_lt (acc_lt_unit_of_inv h ha)]

/-- Settles O40: the checks of R155, then the store of the partial unit. -/
theorem bwflushStoresPartialUnit : Obligations.BwflushStoresPartialUnit := by
  intro s
  refine ⟨fun ha => exec_eq_failed (commandResult_bwflush_of_closed ha),
    fun ha hn => exec_of_ok (commandResult_bwflush_of_empty ha hn),
    fun ha hn hi => exec_eq_failed (commandResult_bwflush_of_full ha hn hi), fun ha hn hi hinv => ?_⟩
  have hidx : s.bw.idx + 1#8 = BitVec.ofNat 8 (s.bw.idx.toNat + 1) := BitVec.add_def ..
  rw [exec_of_ok (commandResult_bwflush_of_fits ha hn hi), flushUnit, lowUnit_of_inv hinv ha, hidx]
  obtain hb | hb : s.bw.buf = .prm ∨ s.bw.buf = .frm := by cases s.bw.buf <;> simp
  · simp only [hb, bufWrite, BitVec.setWidth_ofNat_of_le (show 6 ≤ 8 by omega)]
    rfl
  · simp only [hb, bufWrite]
    rfl

/-! ### Windows after a store (R152) -/

theorem stream_concat (f : Nat) (l : List Nat) (x : Nat) :
    stream f (l ++ [x]) = stream f l + x <<< (f * l.length) := by
  induction l with
  | nil => simp [stream]
  | cons y l ih =>
    rw [List.cons_append, stream, stream, ih, List.length_cons]
    simp only [Nat.shiftLeft_eq, Nat.mul_add, Nat.pow_add]
    ring

section
variable (s : State) (b : BufSel) (i w : Nat)

theorem getElem?_windowUnits (k e : Nat) :
    (windowUnits s b i k w)[e]? = if e < k then ((bufferUnits s b)[i + e]?).map (· % 2 ^ w) else none := by
  simp only [windowUnits, List.getElem?_map, List.getElem?_take, List.getElem?_drop]
  split_ifs <;> rfl

theorem windowUnits_length {k : Nat} (h : i + k ≤ b.length) : (windowUnits s b i k w).length = k := by
  simp only [windowUnits, List.length_map, List.length_take, List.length_drop, bufferUnits_length]
  omega

/-- The unit stored in element `i + k` ends the window of the elements before it. -/
theorem windowUnits_store {t : State} {k x : Nat} (hx : x < 2 ^ w) (hk : i + k < b.length)
    (h : ∀ e, (bufferUnits t b)[e]? = if e = i + k then some x else (bufferUnits s b)[e]?) :
    windowUnits t b i (k + 1) w = windowUnits s b i k w ++ [x] := by
  have hlen := windowUnits_length s b i w hk.le
  apply List.ext_getElem?
  intro e
  rw [getElem?_windowUnits, h]
  obtain hlt | rfl | hgt := Nat.lt_trichotomy e k
  · rw [if_pos (by omega), if_neg (by omega), List.getElem?_append_left (by omega), getElem?_windowUnits, if_pos hlt]
  · rw [if_pos (by omega), if_pos rfl, List.getElem?_append_right (by omega), hlen, Nat.sub_self]
    simp [Nat.mod_eq_of_lt hx]
  · rw [if_neg (by omega), List.getElem?_append_right (by omega), List.getElem?_eq_none (by simp; omega)]

/-- A unit stored behind a window is added above the window's stream. -/
theorem stream_windowUnits_store {t : State} {k x : Nat} (hx : x < 2 ^ w) (hk : i + k < b.length)
    (h : ∀ e, (bufferUnits t b)[e]? = if e = i + k then some x else (bufferUnits s b)[e]?) :
    stream w (windowUnits t b i (k + 1) w) = stream w (windowUnits s b i k w) + x <<< (w * k) := by
  rw [windowUnits_store s b i w hx hk h, stream_concat, windowUnits_length s b i w hk.le]

end

/-- A flush stores the low unit as a turn of the loop of R154 does. -/
theorem flushUnit_units (s : State)
    (h : 1 ≤ s.bw.w.toNat ∧ s.bw.w.toNat ≤ 8 ∧ (s.bw.buf = .prm → s.bw.w.toNat ≤ 6))
    (hi : s.bw.idx.toNat < s.bw.buf.length) (e : Nat) :
    (bufferUnits (flushUnit s) s.bw.buf)[e]? =
      if e = s.bw.idx.toNat then some (s.bw.acc.toNat % 2 ^ s.bw.w.toNat) else (bufferUnits s s.bw.buf)[e]? := by
  rw [← storeUnit_units s h hi]
  cases s.bw.buf <;> rfl

/-! ### The stream written so far (R140, R154) -/

/-- The number of bits that a writer has taken since its window was opened at element `start`. -/
def writtenLength (b : BitStream) (start : Nat) : Nat := b.w.toNat * (b.idx.toNat - start) + b.n.toNat

/-- The bits that a writer has taken since its window was opened at element `start`: the units stored, then the bits
held. -/
def writtenStream (s : State) (start : Nat) : Nat :=
  stream s.bw.w.toNat (windowUnits s s.bw.buf start (s.bw.idx.toNat - start) s.bw.w.toNat) +
    s.bw.acc.toNat <<< (s.bw.w.toNat * (s.bw.idx.toNat - start))

/-- One unit stored, on numbers. -/
theorem storeUnit_toNat {s : State} (hi : s.bw.idx.toNat < s.bw.buf.length) :
    (storeUnit s).bw.idx.toNat = s.bw.idx.toNat + 1 ∧ (storeUnit s).bw.n.toNat = s.bw.n.toNat - s.bw.w.toNat ∧
      (storeUnit s).bw.acc.toNat = s.bw.acc.toNat / 2 ^ s.bw.w.toNat := by
  have hlen := bufSel_length_le s.bw.buf
  have hn := s.bw.n.isLt
  simp only [storeUnit_bw, BitVec.toNat_add, BitVec.toNat_ofNat, BitVec.toNat_ushiftRight, Nat.shiftRight_eq_div_pow,
    and_true]
  omega

/-- A number split into its low `w` bits and the others. -/
theorem shiftLeft_mod_add_div (x w m : Nat) : (x % 2 ^ w) <<< m + (x / 2 ^ w) <<< (m + w) = x <<< m := by
  conv_rhs => rw [← Nat.mod_add_div x (2 ^ w)]
  simp only [Nat.shiftLeft_eq, Nat.pow_add]
  ring

/-- Storing full units moves bits from the accumulator to the window and takes none. -/
theorem storeUnits_written (k : Nat) {s : State} {start : Nat}
    (h : 1 ≤ s.bw.w.toNat ∧ s.bw.w.toNat ≤ 8 ∧ (s.bw.buf = .prm → s.bw.w.toNat ≤ 6))
    (hn : s.bw.w.toNat * k ≤ s.bw.n.toNat) (hi : s.bw.idx.toNat + k ≤ s.bw.buf.length)
    (hstart : start ≤ s.bw.idx.toNat) :
    start ≤ (storeUnits k s).bw.idx.toNat ∧
      writtenLength (storeUnits k s).bw start = writtenLength s.bw start ∧
      writtenStream (storeUnits k s) start = writtenStream s start := by
  induction k generalizing s with
  | zero => exact ⟨hstart, rfl, rfl⟩
  | succ k ih =>
    have hi1 : s.bw.idx.toNat < s.bw.buf.length := by omega
    obtain ⟨ei, en, ea⟩ := storeUnit_toNat hi1
    have hw : (storeUnit s).bw.w = s.bw.w := rfl
    have hbuf : (storeUnit s).bw.buf = s.bw.buf := rfl
    rw [Nat.mul_add, Nat.mul_one] at hn
    obtain ⟨d, hd⟩ := Nat.exists_eq_add_of_le hstart
    have hlength : writtenLength (storeUnit s).bw start = writtenLength s.bw start := by
      rw [writtenLength, writtenLength, ei, en, hw, hd, show start + d + 1 - start = d + 1 by omega,
        Nat.add_sub_cancel_left, Nat.mul_add]
      omega
    have hstream : writtenStream (storeUnit s) start = writtenStream s start := by
      have hstored := stream_windowUnits_store s s.bw.buf start s.bw.w.toNat (k := d)
        (Nat.mod_lt s.bw.acc.toNat (Nat.two_pow_pos _)) (hd ▸ hi1) (hd ▸ storeUnit_units s h hi1)
      rw [writtenStream, writtenStream, ei, ea, hw, hbuf, hd, show start + d + 1 - start = d + 1 by omega,
        Nat.add_sub_cancel_left, hstored]
      rw [Nat.mul_succ, Nat.add_assoc, shiftLeft_mod_add_div]
    rw [← hlength, ← hstream]
    exact ih h (by rw [hw, en]; omega) (by rw [ei, hbuf]; omega) (by rw [ei]; omega)

/-- OPR is added above the bits written (R154). -/
theorem appendOpr_written {s : State} {nb : Nat} (hnb : nb ≤ 32) (h : s.bw.Inv) (ha : s.bw.act = true) (start : Nat) :
    writtenLength (appendOpr s nb).bw start = writtenLength s.bw start + nb ∧
      writtenStream (appendOpr s nb) start = writtenStream s start + s.opr.toNat <<< writtenLength s.bw start := by
  have hw := h.width ha
  have hn := h.bits ha
  obtain ⟨eacc, en⟩ := appendOpr_toNat s nb hnb (by omega) h.accBound
  have hsame : writtenStream (appendOpr s nb) start =
      stream s.bw.w.toNat (windowUnits s s.bw.buf start (s.bw.idx.toNat - start) s.bw.w.toNat) +
        (appendOpr s nb).bw.acc.toNat <<< (s.bw.w.toNat * (s.bw.idx.toNat - start)) := rfl
  have hlength : writtenLength (appendOpr s nb).bw start =
      s.bw.w.toNat * (s.bw.idx.toNat - start) + (appendOpr s nb).bw.n.toNat := rfl
  rw [hsame, hlength, eacc, en, writtenStream, writtenLength]
  refine ⟨by rw [Nat.add_assoc], ?_⟩
  simp only [Nat.shiftLeft_eq, Nat.pow_add]
  ring

/-- The writer works on the window that the record `r` opens, and has taken `length` bits of the value `bits`. -/
structure Writing (s : State) (r : BitStream) (length bits : Nat) : Prop where
  inv : s.bw.Inv
  act : s.bw.act = true
  buf : s.bw.buf = r.buf
  w : s.bw.w = r.w
  stop : s.bw.stop = r.stop
  start : r.idx.toNat ≤ s.bw.idx.toNat
  length : writtenLength s.bw r.idx.toNat = length
  bits : writtenStream s r.idx.toNat = bits

/-- BWINIT opens the window with nothing written (R153). -/
theorem writing_openStream (s : State) {w : BitVec 4} {buf : BufSel} {start len : Byte}
    (h : windowWellFormed w buf start len = true) :
    Writing (succeed { s with bw := openStream w buf start len }) (openStream w buf start len) 0 0 where
  inv := openStream_inv h
  act := rfl
  buf := rfl
  w := rfl
  stop := rfl
  start := le_rfl
  length := by simp [writtenLength, openStream]
  bits := by simp [writtenStream, openStream, windowUnits, stream]

section
variable {s : State} {r : BitStream} {length bits : Nat} (h : Writing s r length bits)
include h

/-- OPR is an input of the writer and holds nothing written. -/
theorem writing_opr (v : Word) : Writing { s with opr := v } r length bits :=
  ⟨h.inv, h.act, h.buf, h.w, h.stop, h.start, h.length, h.bits⟩

/-- ERR is no part of the writer. -/
theorem writing_succeed : Writing (succeed s) r length bits :=
  ⟨h.inv, h.act, h.buf, h.w, h.stop, h.start, h.length, h.bits⟩

/-- A write that fits the window's bits completes no unit past its end. -/
theorem writing_units_fit {nb : Nat} (hroom : length + nb ≤ r.w.toNat * (r.stop.toNat - r.idx.toNat)) :
    s.bw.idx.toNat + unitsCompleted s.bw nb ≤ s.bw.stop.toNat := by
  obtain ⟨hw, -⟩ := h.inv.width h.act
  have hstart := h.start
  have hlength := h.length
  have hunits : s.bw.w.toNat * unitsCompleted s.bw nb ≤ s.bw.n.toNat + nb := Nat.mul_div_le ..
  rw [← h.w, ← h.stop] at hroom
  rw [writtenLength] at hlength
  have hscaled : s.bw.w.toNat * (s.bw.idx.toNat - r.idx.toNat + unitsCompleted s.bw nb) ≤
      s.bw.w.toNat * (s.bw.stop.toNat - r.idx.toNat) := by
    rw [Nat.mul_add]; omega
  have := Nat.le_of_mul_le_mul_left hscaled hw
  obtain ⟨hwin, -⟩ := h.inv.window h.act
  omega

/-- A field that fits the window is added above the bits written (R154). -/
theorem writing_bwwrite {nb : Byte} (h1 : 1 ≤ nb.toNat) (h32 : nb.toNat ≤ 32) (hopr : s.opr.toNat < 2 ^ nb.toNat)
    (hroom : length + nb.toNat ≤ r.w.toNat * (r.stop.toNat - r.idx.toNat)) :
    ∃ t, commandResult (.bwwrite nb) s = .ok t ∧
      Writing t r (length + nb.toNat) (bits + s.opr.toNat <<< length) := by
  have hfit := writing_units_fit h hroom
  have hw := h.inv.width h.act
  have hn := h.inv.bits h.act
  obtain ⟨-, hstop⟩ := h.inv.window h.act
  obtain ⟨-, en⟩ := appendOpr_toNat s nb.toNat h32 (by omega) h.inv.accBound
  obtain ⟨hbw, -⟩ := storeUnits_appendOpr h.inv h.act h32 hfit
  obtain ⟨hlength, hbits⟩ := appendOpr_written h32 h.inv h.act r.idx.toNat
  obtain ⟨hstart', hlength', hbits'⟩ := storeUnits_written (unitsCompleted s.bw nb.toNat)
    (s := appendOpr s nb.toNat) hw (by rw [en]; exact Nat.mul_div_le ..) (hfit.trans hstop) h.start
  refine ⟨_, commandResult_bwwrite_of_fits h1 h32 h.act hopr hfit, bwwrite_inv h.inv h.act h32 hopr hfit,
    (congrArg BitStream.act hbw :).trans h.act, (congrArg BitStream.buf hbw :).trans h.buf,
    (congrArg BitStream.w hbw :).trans h.w, (congrArg BitStream.stop hbw :).trans h.stop, hstart', ?_, ?_⟩
  · rw [hlength', hlength, h.length]
  · rw [hbits', hbits, h.bits, h.length]

/-- The partial unit ends the stream, and no unit is stored where none is held (R155). -/
theorem writing_bwflush (hroom : length ≤ r.w.toNat * (r.stop.toNat - r.idx.toNat)) :
    ∃ t, commandResult .bwflush s = .ok t ∧
      stream r.w.toNat
        (windowUnits t r.buf r.idx.toNat ((length + r.w.toNat - 1) / r.w.toNat) r.w.toNat) = bits := by
  have hw := h.inv.width h.act
  have hn := h.inv.bits h.act
  have hacc := acc_lt_unit_of_inv h.inv h.act
  obtain ⟨d, hd⟩ := Nat.exists_eq_add_of_le h.start
  have hlength := h.length
  have hbits := h.bits
  rw [← h.w, ← h.stop] at hroom
  rw [writtenLength, hd, Nat.add_sub_cancel_left] at hlength
  rw [writtenStream, hd, Nat.add_sub_cancel_left] at hbits
  rw [← h.w, ← h.buf, ← hlength, ← hbits]
  obtain hzero | hpos := Nat.eq_zero_or_pos s.bw.n.toNat
  · have hempty : s.bw.acc.toNat = 0 := by
      have := h.inv.accBound
      rw [hzero] at this
      omega
    refine ⟨s, commandResult_bwflush_of_empty h.act hzero, ?_⟩
    rw [hzero, hempty, Nat.add_zero, Nat.add_sub_assoc hw.1, Nat.mul_add_div hw.1,
      Nat.div_eq_of_lt (Nat.sub_one_lt_of_le hw.1 le_rfl), Nat.zero_shiftLeft]
    rfl
  · have hin : s.bw.idx.toNat < s.bw.stop.toNat := by
      have : d < s.bw.stop.toNat - r.idx.toNat := Nat.lt_of_mul_lt_mul_left (a := s.bw.w.toNat) (by omega)
      omega
    obtain ⟨-, hstop⟩ := h.inv.window h.act
    have hstored := flushUnit_units s hw (hin.trans_le hstop)
    rw [hd, Nat.mod_eq_of_lt hacc] at hstored
    refine ⟨flushUnit s, commandResult_bwflush_of_fits h.act hpos hin, ?_⟩
    have hceil : (s.bw.n.toNat + s.bw.w.toNat - 1) / s.bw.w.toNat = 1 :=
      Nat.div_eq_of_lt_le (by omega) (by omega)
    rw [Nat.add_assoc, Nat.add_sub_assoc (by omega), Nat.mul_add_div hw.1, hceil,
      stream_windowUnits_store s _ _ _ hacc (by omega) hstored]

end

theorem fieldBits_cons (f : Word × Byte) (rest : List (Word × Byte)) :
    fieldBits (f :: rest) = f.2.toNat + fieldBits rest := by
  simp [fieldBits]

/-- Fields that fit the window, written one after the other, form one stream above the bits written. -/
theorem writing_writeFields (fields : List (Word × Byte)) {s : State} {r : BitStream} {length bits : Nat}
    (h : Writing s r length bits)
    (hfields : ∀ f ∈ fields, 1 ≤ f.2.toNat ∧ f.2.toNat ≤ 32 ∧ f.1.toNat < 2 ^ f.2.toNat)
    (hroom : length + fieldBits fields ≤ r.w.toNat * (r.stop.toNat - r.idx.toNat)) :
    ∃ t, writeFields fields s = .next t ∧
      Writing t r (length + fieldBits fields) (bits + fieldStream fields <<< length) := by
  induction fields generalizing s length bits with
  | nil => exact ⟨s, rfl, by simpa [fieldBits, fieldStream] using h⟩
  | cons f rest ih =>
    obtain ⟨v, nb⟩ := f
    obtain ⟨h1, h32, hv⟩ := hfields (v, nb) (by simp)
    rw [fieldBits_cons] at hroom ⊢
    obtain ⟨t, hrun, ht⟩ := writing_bwwrite (writing_opr h v) h1 h32 hv (by omega)
    obtain ⟨u, hrest, hu⟩ := ih (writing_succeed ht) (fun f hf => hfields f (by simp [hf])) (by omega)
    refine ⟨u, ?_, ?_⟩
    · rw [writeFields, exec_of_ok hrun]
      exact hrest
    · rw [← Nat.add_assoc]
      convert hu using 1
      simp only [fieldStream, Nat.shiftLeft_eq, Nat.pow_add]
      ring

/-- Settles O41: BWINIT opens the window with nothing written, each field is added above what is written, and the flush
ends the stream. -/
theorem writtenFieldsFormTheStream : Obligations.WrittenFieldsFormTheStream := by
  intro s w buf start len fields hwf hfields hroom
  obtain ⟨-, -, -, hwin⟩ := (windowWellFormed_iff w buf start len).mp hwf
  have hstop := openStream_stop_sub_idx (w := w) hwin
  obtain ⟨u, hwrite, hu⟩ := writing_writeFields fields (writing_openStream s hwf) hfields
    (by rw [hstop, Nat.zero_add]; exact hroom)
  obtain ⟨v, hflush, hv⟩ := writing_bwflush hu (by rw [hstop, Nat.zero_add]; exact hroom)
  simp only [Nat.zero_add, Nat.shiftLeft_zero] at hv
  exact ⟨_, u, succeed v, exec_of_ok (commandResult_bwinit_of_wellFormed s hwf), hwrite, exec_of_ok hflush, rfl, hv⟩

end Sys2Proof.Machine
end

section
/-! SUPPORT. The stream obfuscator (44_obfuscator.md): seeding is the integer computation of R172, PNEXT draws the next
value of the keystream, and OBFDEC and OBFENC combine the frame with the values that PNEXT gives after PSEEDF. -/

namespace Sys2Proof.Machine

/-! ### Seeding on integers (R171, R172) -/

/-- ST as the signed numbers that its elements stand for (R170). -/
def stInts (st : Vector Word 56) : List Int := st.toList.map BitVec.toInt

@[simp] theorem stInts_set (st : Vector Word 56) {i : Nat} (hi : i < 56) (x : Word) :
    stInts (st.set i x hi) = (stInts st).set i x.toInt := by
  simp [stInts, Vector.toList_set, List.map_set]

theorem getElem?_stInts (st : Vector Word 56) (i : Fin 56) : (stInts st)[i.val]? = some st[i].toInt := by
  simp [stInts]

theorem getD_stInts (st : Vector Word 56) (i : Fin 56) : (stInts st).getD i 0 = st[i].toInt := by
  rw [List.getD_eq_getElem?_getD, getElem?_stInts, Option.getD_some]

theorem stIndex_val {x : Nat} (h : x < 56) : (stIndex x).val = x := Nat.mod_eq_of_lt h

/-- FIX on a difference of two elements is the correction on integers: nothing wraps (R171, R178). -/
theorem fix_sub_toInt {a b : Word} (ha : a.toNat < 0x7FFFFFFF) (hb : b.toNat < 0x7FFFFFFF) :
    (fix (a - b)).toInt = refFix (a.toInt - b.toInt) := by
  obtain ⟨hsub, hlo, hhi⟩ := sub_spec ha hb
  rw [(fix_spec hlo hhi).1, hsub, refFix]

/-- The seeding loop and its integer reference, from any bounded start. -/
theorem stInts_foldl_seedStep (xs : List Nat) {a : Vector Word 56 × Word × Word} (h : SeedBounded a) :
    stInts (xs.foldl seedStep a).1 = refSeedLoop xs (stInts a.1) a.2.1.toInt a.2.2.toInt := by
  induction xs generalizing a with
  | nil => rfl
  | cons x xs ih =>
    obtain ⟨hst, hseedp, hvalue⟩ := h
    have hx : x * 21 % 55 < 56 := by omega
    rw [List.foldl_cons, ih (seedStep_bounded x hst hseedp hvalue)]
    simp only [seedStep, stInts_set, stIndex_val hx, fix_sub_toInt hseedp hvalue, refSeedLoop]

/-- The warm-up and its integer reference, from any bounded array. -/
theorem stInts_foldl_warmStep (xs : List Nat) (hxs : ∀ x ∈ xs, x < 56) {st : Vector Word 56} (h : StBounded st) :
    stInts (xs.foldl warmStep st) = refWarm xs (stInts st) := by
  induction xs generalizing st with
  | nil => rfl
  | cons x xs ih =>
    obtain ⟨hx, hrest⟩ := List.forall_mem_cons.mp hxs
    have hy : (x + 30) % 55 + 1 < 56 := by omega
    have read : ∀ y, y < 56 → (stInts st).getD y 0 = st[stIndex y].toInt := fun y hy => by
      rw [← getD_stInts, stIndex_val hy]
    rw [List.foldl_cons, ih hrest (warmStep_bounded x h), refWarm, read x hx, read _ hy]
    simp only [warmStep, stInts_set, stIndex_val hx, fix_sub_toInt (h _) (h _)]

theorem stInts_warmPass {st : Vector Word 56} (h : StBounded st) :
    stInts (warmPass st) = refWarm (List.range 56) (stInts st) :=
  stInts_foldl_warmStep _ (fun _ => List.mem_range.mp) h

/-- `seedp` at its start is in 0..0x7FFFFFFE for every seed, so its subtraction does not wrap (R175, R178). -/
theorem seedp_spec (seed : BitVec 16) :
    (prngMseed - seed.setWidth 32).toNat < 0x7FFFFFFF ∧
      (prngMseed - seed.setWidth 32).toInt = 0x09A4EC86 - (seed.toNat : Int) := by
  have hseed := seed.isLt
  have hsub : (prngMseed - seed.setWidth 32).toNat = 0x09A4EC86 - seed.toNat := by
    rw [prngMseed, BitVec.toNat_sub, BitVec.toNat_setWidth, BitVec.toNat_ofNat]; omega
  have hbound : (prngMseed - seed.setWidth 32).toNat < 0x7FFFFFFF := by omega
  exact ⟨hbound, by rw [toInt_of_lt hbound, hsub]; omega⟩

theorem stInts_seedLoop {seedp : Word} (h : seedp.toNat < 0x7FFFFFFF) :
    stInts (seedLoop seedp) =
      refSeedLoop (List.range' 1 55) ((List.replicate 56 0).set 55 seedp.toInt) seedp.toInt 1 := by
  have start : SeedBounded ((Vector.replicate 56 0#32).set (stIndex 55) seedp, seedp, 1#32) :=
    ⟨bounded_set (fun i => by simp) (stIndex 55) h, h, (by decide : (1#32).toNat < 0x7FFFFFFF)⟩
  rw [seedLoop, stInts_foldl_seedStep _ start, stInts_set]
  rfl

/-- SEED(S) on 32-bit words is SEED(S) on integers (R172, R178). -/
theorem stInts_seedGen (seed : BitVec 16) : stInts (seedGen seed).st = refSeed seed.toNat := by
  obtain ⟨hbound, hint⟩ := seedp_spec seed
  have h0 := seedLoop_bounded hbound
  have h1 := warmPass_bounded h0
  have h2 := warmPass_bounded h1
  have h3 := warmPass_bounded h2
  calc stInts (seedGen seed).st
      = stInts (warmPass (warmPass (warmPass (warmPass (seedLoop (prngMseed - seed.setWidth 32)))))) := rfl
    _ = refSeed seed.toNat := by
      rw [stInts_warmPass h3, stInts_warmPass h2, stInts_warmPass h1, stInts_warmPass h0, stInts_seedLoop hbound, hint,
        refSeed]

theorem toInt_bounds {v : Word} (h : v.toNat < 0x7FFFFFFF) : 0 ≤ v.toInt ∧ v.toInt ≤ 0x7FFFFFFE := by
  rw [toInt_of_lt h]; omega

/-- Settles O42: the array is that of the integer reference, and seeding bounds it. -/
theorem pseediSeedsAsIntegers : Obligations.PseediSeedsAsIntegers := by
  refine fun s seed => ⟨(seedGen seed).st, exec_of_ok (t := seedBody seed s) rfl, fun i => ⟨?_, toInt_bounds ?_⟩⟩
  · rw [← stInts_seedGen, getElem?_stInts]
  · exact (seedGen_inv seed).bounded rfl i

/-! ### PSEEDF (R174) -/

/-- The seed of a frame as a number: its two bytes do not overlap. -/
theorem frameSeed_eq (frm : Vector Byte 23) :
    frameSeed frm = BitVec.ofNat 16 (frm[0].toNat + 256 * frm[1].toNat) := by
  have h0 := frm[0].isLt
  have h1 := frm[1].isLt
  apply BitVec.eq_of_toNat_eq
  have low : (frm[0].setWidth 16).toNat = frm[0].toNat := by rw [BitVec.toNat_setWidth]; omega
  have high : (frm[1].setWidth 16 <<< 8).toNat = frm[1].toNat <<< 8 := by
    rw [BitVec.toNat_shiftLeft, BitVec.toNat_setWidth, Nat.shiftLeft_eq, Nat.shiftLeft_eq]; omega
  calc (frameSeed frm).toNat = frm[1].toNat <<< 8 ||| frm[0].toNat := by
        rw [Nat.lor_comm, ← low, ← high]; rfl
    _ = (BitVec.ofNat 16 (frm[0].toNat + 256 * frm[1].toNat)).toNat := by
        rw [← Nat.shiftLeft_add_eq_or_of_lt h0, Nat.shiftLeft_eq, BitVec.toNat_ofNat]; omega

/-- Settles O43: both commands seed with the number of the first two frame bytes. -/
theorem pseedfSeedsFromFrame : Obligations.PseedfSeedsFromFrame := fun s =>
  have hseed := exec_of_ok (i := .pseedi (frameSeed s.frm)) (t := seedBody (frameSeed s.frm) s) rfl
  ⟨seedGen (frameSeed s.frm), exec_of_ok (t := seedBody (frameSeed s.frm) s) rfl, frameSeed_eq s.frm ▸ hseed⟩

/-! ### PNEXT (R176, R177) -/

theorem commandResult_pnext_of_seeded {s : State} (h : s.status.seeded = true) :
    commandResult .pnext s = .ok { s with res := (nextGen s.gen).1, gen := (nextGen s.gen).2 } := by
  simp [commandResult, h]

/-- Settles O44: the value is that of `nextGen`, which a generator under the invariant gives as an integer. -/
theorem pnextGivesNextValue : Obligations.PnextGivesNextValue := by
  refine fun s => ⟨fun hs => exec_eq_failed (by simp [commandResult, hs]), fun hs hinv => ?_⟩
  rw [hs] at hinv
  obtain ⟨hvalue, hbound⟩ := nextGen_spec hinv
  obtain ⟨hlo, hhi⟩ := toInt_bounds hbound
  exact ⟨advance s.gen.c1, advance s.gen.c2, (nextGen s.gen).1, advance_val _, advance_val _, hvalue, hlo, hhi,
    exec_of_ok (commandResult_pnext_of_seeded hs)⟩

/-! ### The keystream: what PNEXT gives one time after the other -/

/-- The generator after `n` values have been drawn. -/
def genAfter (g : Gen) (n : Nat) : Gen := (fun g => (nextGen g).2)^[n] g

/-- The value that is drawn after `n` others. -/
def keystream (g : Gen) (n : Nat) : Word := (nextGen (genAfter g n)).1

theorem genAfter_succ (g : Gen) (n : Nat) : genAfter g (n + 1) = (nextGen (genAfter g n)).2 :=
  Function.iterate_succ_apply' ..

theorem genAfter_c1 (g : Gen) (n : Nat) : (genAfter g n).c1 = advance^[n] g.c1 :=
  Function.Semiconj.iterate_right (f := Gen.c1) (fun _ => rfl) n g

theorem genAfter_c2 (g : Gen) (n : Nat) : (genAfter g n).c2 = advance^[n] g.c2 :=
  Function.Semiconj.iterate_right (f := Gen.c2) (fun _ => rfl) n g

/-- PNEXT run `n + 1` times on a seeded generator. -/
theorem execAll_replicate_pnext (n : Nat) {s : State} (h : s.status.seeded = true) :
    execAll (List.replicate (n + 1) .pnext) s =
      .next (succeed { s with res := keystream s.gen n, gen := genAfter s.gen (n + 1) }) := by
  induction n generalizing s with
  | zero => exact execAll_one (commandResult_pnext_of_seeded h)
  | succ n ih =>
    rw [List.replicate_succ, execAll_cons_of_ok (commandResult_pnext_of_seeded h)]
    exact ih h

/-- The state after PSEEDF and `n + 1` times PNEXT. -/
def keyState (s : State) (n : Nat) : State :=
  succeed { succeed (seedBody (frameSeed s.frm) s) with
    res := keystream (seedGen (frameSeed s.frm)) n
    gen := genAfter (seedGen (frameSeed s.frm)) (n + 1) }

theorem keyState_res (s : State) (n : Nat) : (keyState s n).res = keystream (seedGen (frameSeed s.frm)) n := rfl

theorem keyState_gen (s : State) (n : Nat) : (keyState s n).gen = genAfter (seedGen (frameSeed s.frm)) (n + 1) := rfl

theorem execAll_pseedf_pnext (s : State) (n : Nat) :
    execAll (.pseedf :: List.replicate (n + 1) .pnext) s = .next (keyState s n) := by
  rw [execAll_cons_of_ok (t := seedBody (frameSeed s.frm) s) rfl]
  exact execAll_replicate_pnext n rfl

/-! ### The loop of OBFDEC and OBFENC (R180, R181) -/

/-- `n` turns of the loop draw `n` values and combine FRM[2..n+1] with them, in increasing byte order. -/
theorem foldl_combineStep (f : Byte → Word → Byte) (g : Gen) (frm : Vector Byte 23) {n : Nat} (hn : n ≤ 21) :
    ((List.range' 2 n).foldl (combineStep f) (g, frm)).1 = genAfter g n ∧
      ∀ i (hi : i < 23), ((List.range' 2 n).foldl (combineStep f) (g, frm)).2[i] =
        if 2 ≤ i ∧ i < n + 2 then f frm[i] (keystream g (i - 2)) else frm[i] := by
  induction n with
  | zero => exact ⟨rfl, fun i hi => (if_neg (by omega)).symm⟩
  | succ n ih =>
    obtain ⟨hgen, hfrm⟩ := ih (by omega)
    have hidx : (Fin.ofNat 23 (2 + n)).val = n + 2 := by
      rw [Fin.val_ofNat, Nat.mod_eq_of_lt (by omega), Nat.add_comm]
    rw [List.range'_1_concat, List.foldl_concat]
    generalize (List.range' 2 n).foldl (combineStep f) (g, frm) = a at hgen hfrm
    refine ⟨by rw [genAfter_succ, ← hgen]; rfl, fun i hi => ?_⟩
    have old : a.2[Fin.ofNat 23 (2 + n)] = frm[n + 2] := by
      simp only [Fin.getElem_fin, hidx, hfrm]
      exact if_neg (by omega)
    simp only [combineStep, old, hgen, hidx, Vector.getElem_set]
    by_cases hi' : i = n + 2
    · subst hi'
      rw [if_pos rfl, if_pos (by omega), keystream, Nat.add_sub_cancel]
    · rw [if_neg (Ne.symm hi'), hfrm i hi]
      exact if_congr (by omega) rfl rfl

/-- The tail mask is for FRM[22] alone (R179). -/
theorem getElem_tailMask_of_lt (frm : Vector Byte 23) {i : Nat} (hi : i < 22) : (tailMask frm)[i] = frm[i] :=
  Vector.getElem_set_ne (by decide) _ (show 22 ≠ i by omega)

theorem getElem_tailMask_last (frm : Vector Byte 23) : (tailMask frm)[22] = frm[22] &&& 0x0F#8 :=
  Vector.getElem_set_self _

section
variable (f : Byte → Word → Byte) (s : State)

theorem obfuscate_gen : (obfuscate f s).gen = genAfter (seedGen (frameSeed s.frm)) 21 :=
  (foldl_combineStep f _ _ le_rfl).1

/-- FRM[0] and FRM[1] pass through. -/
theorem obfuscate_frm_seed {i : Nat} (hi : i < 2) : (obfuscate f s).frm[i] = s.frm[i] := by
  have h := (foldl_combineStep f (seedGen (frameSeed s.frm)) s.frm le_rfl).2 i (by omega)
  rw [if_neg (by omega)] at h
  exact (getElem_tailMask_of_lt _ (by omega)).trans h

/-- FRM[2..21] are combined with the first 20 values. -/
theorem obfuscate_frm_key {j : Nat} (hj : j < 20) :
    (obfuscate f s).frm[j + 2] = f s.frm[j + 2] (keystream (seedGen (frameSeed s.frm)) j) := by
  have h := (foldl_combineStep f (seedGen (frameSeed s.frm)) s.frm le_rfl).2 (j + 2) (by omega)
  rw [if_pos (by omega), Nat.add_sub_cancel] at h
  exact (getElem_tailMask_of_lt _ (by omega)).trans h

/-- FRM[22] is combined with the 21st value, and the tail mask keeps its low 4 bits (R179). -/
theorem obfuscate_frm_tail :
    (obfuscate f s).frm[22] = f s.frm[22] (keystream (seedGen (frameSeed s.frm)) 20) &&& 0x0F#8 := by
  have h := (foldl_combineStep f (seedGen (frameSeed s.frm)) s.frm le_rfl).2 22 (by omega)
  rw [if_pos (by omega)] at h
  exact (getElem_tailMask_last _).trans (congrArg (· &&& 0x0F#8) h)

end

/-! ### OBFDEC and OBFENC (R180, R181, R183) -/

/-! The combinations use only the low byte of a keystream value (R183). -/

theorem subKey_eq (b : Byte) (k : Word) : subKey b k = b - BitVec.ofNat 8 k.toNat := by
  unfold subKey; bv_omega

theorem addKey_eq (b : Byte) (k : Word) : addKey b k = b + BitVec.ofNat 8 k.toNat := by
  unfold addKey; bv_omega

/-- What the body of OBFDEC and OBFENC does, by the values that PNEXT gives after PSEEDF. -/
theorem obfuscate_uses_keystream {i : Instr} {s : State} {f : Byte → Word → Byte} {g : Byte → Byte → Byte}
    (hrun : commandResult i s = .ok (obfuscate f s)) (hf : ∀ b k, f b k = g b (BitVec.ofNat 8 k.toNat)) :
    ∃ (frm : Vector Byte 23) (gen : Gen),
      exec i s = .next { s with status := { s.okStatus with seeded := true }, frm := frm, gen := gen } ∧
      gen = (keyState s 20).gen ∧ gen.c1 = 21 ∧ gen.c2 = 52 ∧
      frm[0] = s.frm[0] ∧ frm[1] = s.frm[1] ∧
      (∀ j : Fin 20, frm[j.val + 2]? =
        s.frm[j.val + 2]?.map fun b => g b (BitVec.ofNat 8 (keyState s j.val).res.toNat)) ∧
      frm[22] = g s.frm[22] (BitVec.ofNat 8 (keyState s 20).res.toNat) &&& 0x0F#8 := by
  refine ⟨(obfuscate f s).frm, (obfuscate f s).gen, exec_of_ok hrun,
    (obfuscate_gen f s).trans (keyState_gen s 20).symm, ?_, ?_,
    obfuscate_frm_seed f s (by omega), obfuscate_frm_seed f s (by omega), fun j => ?_, ?_⟩
  · rw [obfuscate_gen, genAfter_c1]
    exact (by decide : advance^[21] 0 = 21)
  · rw [obfuscate_gen, genAfter_c2]
    exact (by decide : advance^[21] 31 = 52)
  · have hj : j.val + 2 < 23 := by omega
    rw [Vector.getElem?_eq_getElem hj, Vector.getElem?_eq_getElem hj, obfuscate_frm_key f s j.isLt, hf,
      ← keyState_res]
    rfl
  · rw [obfuscate_frm_tail, hf, keyState_res]

/-- Settles O45: both commands are the body `obfuscate`, and the low byte of a value is all that their combination uses. -/
theorem obfuscationUsesTheKeystream : Obligations.ObfuscationUsesTheKeystream := by
  refine fun s => ⟨fun j => keyState s j.val, fun j => execAll_pseedf_pnext s j.val, fun i g h => ?_⟩
  obtain ⟨rfl, rfl⟩ | ⟨rfl, rfl⟩ := h
  · exact obfuscate_uses_keystream (f := subKey) rfl subKey_eq
  · exact obfuscate_uses_keystream (f := addKey) rfl addKey_eq

/-! ### OBFENC then OBFDEC (R182) -/

theorem subKey_addKey (b : Byte) (k : Word) : subKey (addKey b k) k = b := by
  rw [subKey_eq, addKey_eq, BitVec.add_sub_cancel]

theorem and_0F_toNat (b : Byte) : (b &&& 0x0F#8).toNat = b.toNat % 16 := and_mask8 b 4 (by omega)

/-- The low 4 bits of a difference depend on the low 4 bits alone, so the mask of OBFENC is not seen. -/
theorem subKey_masked_addKey (b : Byte) (k : Word) : subKey (addKey b k &&& 0x0F#8) k &&& 0x0F#8 = b &&& 0x0F#8 := by
  rw [subKey_eq, addKey_eq]
  generalize BitVec.ofNat 8 k.toNat = x
  apply BitVec.eq_of_toNat_eq
  have hb := b.isLt
  have hx := x.isLt
  rw [and_0F_toNat, BitVec.toNat_sub, and_0F_toNat, BitVec.toNat_add, and_0F_toNat]
  omega

theorem frameSeed_obfuscate (f : Byte → Word → Byte) (s : State) :
    frameSeed (obfuscate f s).frm = frameSeed s.frm := by
  rw [frameSeed_eq, frameSeed_eq, obfuscate_frm_seed f s (by omega), obfuscate_frm_seed f s (by omega)]

/-- OBFDEC seeds from the bytes that OBFENC kept, so it subtracts the values that OBFENC added. -/
theorem obfdecBody_frm_of_encoded {s t : State} (h : t.frm = (obfencBody s).frm) :
    (obfdecBody t).frm = s.frm.set 22 (s.frm[22] &&& 0x0F#8) := by
  have hseed : frameSeed t.frm = frameSeed s.frm := by rw [h]; exact frameSeed_obfuscate addKey s
  ext i hi
  obtain hlow | ⟨hle, hlt⟩ | rfl : i < 2 ∨ (2 ≤ i ∧ i < 22) ∨ i = 22 := by omega
  · rw [Vector.getElem_set_ne _ _ (by omega), obfdecBody, obfuscate_frm_seed subKey t hlow]
    simp only [h, obfencBody, obfuscate_frm_seed addKey s hlow]
  · obtain ⟨j, rfl⟩ := Nat.exists_eq_add_of_le' hle
    have hj : j < 20 := by omega
    rw [Vector.getElem_set_ne _ _ (by omega), obfdecBody, obfuscate_frm_key subKey t hj, hseed]
    simp only [h, obfencBody, obfuscate_frm_key addKey s hj, subKey_addKey]
  · rw [Vector.getElem_set_self, obfdecBody, obfuscate_frm_tail, hseed]
    simp only [h, obfencBody, obfuscate_frm_tail, subKey_masked_addKey]

/-- Settles O46: the frame after the two bodies; ERR is not in it. -/
theorem obfdecUndoesObfenc : Obligations.ObfdecUndoesObfenc := fun s =>
  ⟨succeed (obfdecBody (succeed (obfencBody s))), execAll_two rfl rfl,
    (succeed_frm _).trans (obfdecBody_frm_of_encoded (succeed_frm _))⟩

end Sys2Proof.Machine
end

section
/-! SUPPORT. The checksum and CRC engine (45_checksum_crc.md): CHK by byte index, the table update on numbers, and a run
of CRCINIT, CRCBYTE for each byte and CRCFIN. -/

namespace Sys2Proof.Machine

/-! ### CHK by byte index (R190) -/

/-- The numbers `code 0`, `code 1`, … are the bytes of `l`. -/
def BytesAre (code : Nat → Nat) (l : List Byte) : Prop := ∀ i (h : i < l.length), code i = l[i].toNat

theorem BytesAre.head {code : Nat → Nat} {b : Byte} {l : List Byte} (h : BytesAre code (b :: l)) : code 0 = b.toNat :=
  h 0 (Nat.succ_pos _)

theorem BytesAre.tail {code : Nat → Nat} {b : Byte} {l : List Byte} (h : BytesAre code (b :: l)) :
    BytesAre (fun i => code (i + 1)) l := fun i hi => h (i + 1) (Nat.succ_lt_succ hi)

/-- A little-endian pair as a number: its two bytes do not overlap. -/
theorem byte_or_shiftLeft_eq_add (lo hi : Byte) : lo.toNat ||| (hi.toNat <<< 8) = lo.toNat + 256 * hi.toNat := by
  rw [Nat.lor_comm, ← Nat.shiftLeft_add_eq_or_of_lt lo.isLt, Nat.shiftLeft_eq]
  omega

theorem pairSum_eq_sum {code : Nat → Nat} {l : List Byte} (h : BytesAre code l) :
    pairSum l = ((List.range (l.length / 2)).map fun j => code (2 * j) + 256 * code (2 * j + 1)).sum +
      if l.length % 2 = 1 then code (l.length - 1) else 0 := by
  induction l using pairSum.induct generalizing code with
  | case1 lo hi rest ih =>
    have hhi : code 1 = hi.toNat := h.tail.head
    have hhalf : (rest.length + 1 + 1) / 2 = rest.length / 2 + 1 := by omega
    have htrail : (if (rest.length + 1 + 1) % 2 = 1 then code (rest.length + 1 + 1 - 1) else 0) =
        if rest.length % 2 = 1 then code (rest.length - 1 + 1 + 1) else 0 := by
      rw [Nat.add_assoc, Nat.add_mod_right]
      split
      · rw [Nat.sub_add_cancel (by omega)]
        rfl
      · rfl
    rw [pairSum, byte_or_shiftLeft_eq_add, ← h.head, ← hhi, ih h.tail.tail, ← Nat.add_assoc,
      List.length_cons, List.length_cons, htrail, hhalf, List.range_succ_eq_map, List.map_cons, List.map_map,
      List.sum_cons]
    rfl
  | case2 b => simpa [pairSum] using h.head.symm
  | case3 => rfl

theorem chkSum_eq_refSum {code : Nat → Nat} {l : List Byte} (h : BytesAre code l) (hl : 1 ≤ l.length) :
    chkSum l = refSum code l.length := by
  obtain _ | ⟨b, rest⟩ := l
  · exact absurd hl (by decide)
  have htrail : (if rest.length % 2 = 1 then code (rest.length - 1 + 1) else 0) =
      if (rest.length + 1) % 2 = 0 then code rest.length else 0 := by
    by_cases hodd : rest.length % 2 = 1
    · rw [if_pos hodd, if_pos (by omega), Nat.sub_add_cancel (by omega)]
    · rw [if_neg hodd, if_neg (by omega)]
  rw [chkSum, pairSum_eq_sum h.tail, htrail, ← h.head, ← Nat.add_assoc]
  rfl

theorem pairSum_le (l : List Byte) : pairSum l ≤ 65535 * l.length := by
  induction l using pairSum.induct with
  | case1 lo hi rest ih =>
    have hlo := lo.isLt
    have hhi := hi.isLt
    rw [pairSum, byte_or_shiftLeft_eq_add, List.length_cons, List.length_cons]
    omega
  | case2 b =>
    have hb := b.isLt
    rw [pairSum, List.length_singleton]
    omega
  | case3 => exact le_rfl

/-- No sum of a frame window passes 32 bits. -/
theorem chkSum_lt {l : List Byte} (hl : l.length ≤ 23) : chkSum l < 2 ^ 32 := by
  obtain _ | ⟨b, rest⟩ := l
  · exact Nat.two_pow_pos 32
  have hb := b.isLt
  have hrest := pairSum_le rest
  rw [List.length_cons] at hl
  rw [chkSum]
  omega

/-- The four folds leave 8 bits, so the complement is a difference from 255. -/
theorem folds_lt {n : Nat} (h : n < 2 ^ 32) : fold8 (fold8 (fold16 (fold16 n))) < 256 := by
  have h1 : fold16 n ≤ 131070 := by unfold fold16; omega
  have h2 : fold16 (fold16 n) ≤ 65535 := by unfold fold16 at h1 ⊢; omega
  have h3 : fold8 (fold16 (fold16 n)) ≤ 510 := by unfold fold8; omega
  unfold fold8 at h3 ⊢
  omega

theorem chk_toNat {code : Nat → Nat} {l : List Byte} (h : BytesAre code l) (hpos : 1 ≤ l.length)
    (hlen : l.length ≤ 23) : (chk l).toNat = refChk code l.length := by
  have hlt := folds_lt (chkSum_lt hlen)
  rw [chk, BitVec.toNat_not, BitVec.toNat_ofNat, Nat.mod_eq_of_lt hlt, chkSum_eq_refSum h hpos]
  rfl

/-! ### Windows of the frame (R192, R193) -/

theorem frameWindow_length (frm : Vector Byte 23) {start len : Nat} (h : start + len ≤ 23) :
    (frameWindow frm start len).length = len := by
  rw [frameWindow, List.length_take, List.length_drop, Vector.length_toList]
  omega

theorem bytesAre_frameWindow (s : State) {code : Nat → Nat} {start len : Nat} (h : start + len ≤ 23)
    (hcode : ∀ i, code i = frameByte s (start + i)) : BytesAre code (frameWindow s.frm start len) := fun i hi => by
  have hin : start + i < 23 := by rw [frameWindow_length _ h] at hi; omega
  simp only [hcode, frameByte, frameWindow, List.getElem_take, List.getElem_drop, Vector.getElem_toList,
    Vector.getElem?_eq_getElem hin, Option.getD_some]

theorem chk_frameWindow_toNat (s : State) {code : Nat → Nat} {start len : Nat} (hpos : 1 ≤ len) (h : start + len ≤ 23)
    (hcode : ∀ i, code i = frameByte s (start + i)) : (chk (frameWindow s.frm start len)).toNat = refChk code len := by
  have hlen := frameWindow_length s.frm h
  rw [chk_toNat (bytesAre_frameWindow s h hcode) (by omega) (by omega), hlen]

theorem frameChk_toNat (s : State) : (frameChk s.frm).toNat = refChk (fun j => frameByte s (j + 1)) 22 :=
  chk_frameWindow_toNat s (by decide) (by decide) fun i => congrArg (frameByte s) (Nat.add_comm i 1)

/-- The two registers that a checksum goes to, with its number written out. -/
theorem putCksum_of_toNat {c : Byte} {n : Nat} (h : c.toNat = n) (s : State) :
    putCksum c s = { s with cksum := BitVec.ofNat 8 n, res := BitVec.ofNat 32 n } := by
  rw [putCksum, ofNat_eq_of_toNat_eq h, ← h, BitVec.ofNat_toNat]

/-! ### CKSUM (R192) -/

theorem cksumWellFormed_iff (start len : Byte) :
    cksumWellFormed start len = true ↔ 1 ≤ len.toNat ∧ start.toNat + len.toNat ≤ 23 := by
  simp only [cksumWellFormed, Bool.and_eq_true, decide_eq_true_eq]

theorem commandResult_cksum_of_wellFormed (s : State) {start len : Byte} (h : cksumWellFormed start len = true) :
    commandResult (.cksum start len) s = .ok (putCksum (chk (frameWindow s.frm start.toNat len.toNat)) s) := by
  simp only [commandResult, cksumWindowLegal_eq, h, if_true]

theorem commandResult_cksum_of_illegal (s : State) {start len : Byte} (h : ¬ cksumWellFormed start len = true) :
    commandResult (.cksum start len) s = .error (illegalOperand (.cksum start len)) := by
  simp only [commandResult, cksumWindowLegal_eq, if_neg h]

/-- Settles O47: the window's bytes are FRM by index, and the legal operands are the well-formed ones. -/
theorem cksumComputesWindow : Obligations.CksumComputesWindow := by
  refine fun s start len => ⟨fun hpos hlen => ?_, fun hbad => ?_⟩
  · rw [exec_of_ok (commandResult_cksum_of_wellFormed s ((cksumWellFormed_iff start len).mpr ⟨hpos, hlen⟩)),
      putCksum_of_toNat (chk_frameWindow_toNat s hpos hlen fun _ => rfl)]
    rfl
  · exact exec_eq_failed (commandResult_cksum_of_illegal s (by rw [cksumWellFormed_iff]; omega))

/-! ### CKCHK and CKGEN (R193, R194) -/

/-- Settles O48: both put the frame's checksum in CKSUM and RES, and bytes are equal when their numbers are. -/
theorem frameChecksumCheckedAndGenerated : Obligations.FrameChecksumCheckedAndGenerated := by
  intro s c
  have hc : (frameChk s.frm).toNat = c := frameChk_toNat s
  have hput := putCksum_of_toNat hc s
  have heq : (frameChk s.frm == s.frm[(0 : Fin 23)]) = decide (s.frm[0].toNat = c) := by
    rw [Bool.eq_iff_iff, beq_iff_eq, decide_eq_true_iff, ← hc, ← BitVec.toNat_eq, eq_comm]
    rfl
  constructor
  · rw [exec_of_ok (t := ckchkBody s) rfl, ckchkBody, hput, heq]
    rfl
  · rw [exec_of_ok (t := ckgenBody s) rfl, ckgenBody, hput, ← ofNat_eq_of_toNat_eq hc]
    rfl

/-! ### CRCINIT, CRCBYTE and CRCFIN (R199, R201 to R203) -/

/-- CRCUPD with the table index and the shift as numbers (R199). -/
theorem crcUpd_eq (cfg : Tables) {crc : Word} {b : Byte} {k : Fin 256} (hk : k.val = (crc.toNat ^^^ b.toNat) % 256) :
    crcUpd cfg crc b = cfg.crcTable[k] ^^^ BitVec.ofNat 32 (crc.toNat / 256) := by
  have hb : (b.setWidth 32).toNat = b.toNat := BitVec.toNat_setWidth_of_le (by decide)
  have hidx : ((crc ^^^ b.setWidth 32).setWidth 8).toNat = k.val := by
    rw [BitVec.toNat_setWidth, BitVec.toNat_xor, hb, hk]
  have hshift : (crc >>> 8).toNat = crc.toNat / 256 := by
    rw [BitVec.toNat_ushiftRight, Nat.shiftRight_eq_div_pow]
  simp only [crcUpd, hidx, ofNat_eq_of_toNat_eq hshift, Fin.getElem_fin]

/-- Settles O49: each command ends its one register write with ERR = 0. -/
theorem crcCommandEffects : Obligations.CrcCommandEffects := by
  refine fun s b k => ⟨exec_of_ok (t := { s with crc := s.cfg.crcInit }) rfl, fun hk => ?_,
    exec_of_ok (t := { s with res := s.crc ^^^ s.cfg.crcXorOut }) rfl⟩
  rw [exec_of_ok (t := { s with crc := crcUpd s.cfg s.crc b }) rfl, crcUpd_eq s.cfg hk]
  rfl

/-- CRCBYTE for each byte in order, then CRCFIN. -/
theorem execAll_crcbytes_crcfin (bytes : List Byte) (s : State) :
    execAll (bytes.map Instr.crcbyte ++ [.crcfin]) s =
      .next (succeed { s with
        crc := bytes.foldl (crcUpd s.cfg) s.crc
        res := bytes.foldl (crcUpd s.cfg) s.crc ^^^ s.cfg.crcXorOut }) := by
  induction bytes generalizing s with
  | nil => exact execAll_one rfl
  | cons b bytes ih =>
    rw [List.map_cons, List.cons_append, execAll_cons_of_ok (t := { s with crc := crcUpd s.cfg s.crc b }) rfl, ih]
    rfl

/-- The CRC register after CRCINIT and CRCBYTE for each byte in order. -/
def crcOf (cfg : Tables) (bytes : List Byte) : Word := bytes.foldl (crcUpd cfg) cfg.crcInit

theorem symCrc_eq_crcOf (cfg : Tables) (sym : Vector Code 30) : symCrc cfg sym = crcOf cfg (glyphStream cfg sym) := rfl

theorem execAll_crcRun (bytes : List Byte) (s : State) :
    execAll (.crcinit :: (bytes.map Instr.crcbyte ++ [.crcfin])) s =
      .next (succeed { s with crc := crcOf s.cfg bytes, res := crcOf s.cfg bytes ^^^ s.cfg.crcXorOut }) := by
  rw [execAll_cons_of_ok (t := { s with crc := s.cfg.crcInit }) rfl, execAll_crcbytes_crcfin]
  rfl

/-! ### CRCSYM (R204, R205) -/

theorem range_flatMap_getElem? {α β : Type} (l : List α) (f : α → List β) :
    ((List.range l.length).flatMap fun k => (l[k]?.map f).getD []) = l.flatMap f := by
  induction l with
  | nil => rfl
  | cons x xs ih =>
    rw [List.length_cons, List.range_succ_eq_map, List.flatMap_cons, List.flatMap_map, List.flatMap_cons, ← ih]
    rfl

theorem glyphStream_eq (cfg : Tables) (sym : Vector Code 30) :
    glyphStream cfg sym =
      (List.range 30).flatMap fun k => ((sym[k]?.bind fun c => cfg.symGlyph[c.toNat]?).getD []) := by
  have hglyph : ∀ c : Code, cfg.symGlyph[c.toNat]? = some (glyphOf cfg c) := fun c =>
    Vector.getElem?_eq_getElem c.isLt
  rw [glyphStream, ← range_flatMap_getElem?, Vector.length_toList]
  simp only [hglyph, Vector.getElem?_toList, Option.map_eq_bind, Function.comp_def]

/-- Settles O50: the glyph bytes are those of R204, and the run leaves their CRC in CRC and its final value in RES. -/
theorem crcsymFeedsGlyphs : Obligations.CrcsymFeedsGlyphs := fun s => by
  rw [← glyphStream_eq]
  refine ⟨_, execAll_crcRun (glyphStream s.cfg s.sym) s, ?_⟩
  rw [exec_of_ok (t := crcsymBody s) rfl, crcsymBody, symCrc_eq_crcOf, BitVec.ofNat_toNat]
  rfl

/-! ### The default parameters (R10, R11, R200) -/

/-- CRCUPD with the default table, an entry computed when it is used. -/
theorem crcUpd_reset (crc : Word) (b : Byte) :
    crcUpd State.reset.cfg crc b = crcEntry ((crc ^^^ b.setWidth 32).setWidth 8).toNat ^^^ (crc >>> 8) :=
  congrArg (· ^^^ (crc >>> 8)) (Vector.getElem_ofFn _)

theorem crcOf_reset_checkBytes :
    crcOf State.reset.cfg [0x31#8, 0x32#8, 0x33#8, 0x34#8, 0x35#8, 0x36#8, 0x37#8, 0x38#8, 0x39#8] = 0x340BC6D9#32 := by
  simp only [crcOf, List.foldl, crcUpd_reset]
  decide +kernel

/-- Settles O51: the run leaves the CRC of the nine bytes, which the default table gives. -/
theorem defaultCrcCheckValue : Obligations.DefaultCrcCheckValue := by
  refine ⟨_, execAll_crcRun _ State.reset, ?_, ?_⟩
  · rw [succeed_res, crcOf_reset_checkBytes]
    decide
  · exact crcOf_reset_checkBytes

end Sys2Proof.Machine
end

section
/-! SUPPORT. Pipelines and control (46_pipeline_control.md): NOP and CLRERR, DECODE and ENCODE as runs of the commands
they are made of, what each of them leaves as a function of its inputs, and DECODE of the text that ENCODE wrote. -/

namespace Sys2Proof.Machine

/-! ### NOP and CLRERR (R215, R221) -/

/-- Settles O22: both end with ERR = 0, NOP on the state it found. -/
theorem nopAndClrerrEffects : Obligations.NopAndClrerrEffects := fun s =>
  ⟨exec_of_ok (i := .nop) (t := s) rfl, exec_of_ok (i := .clrerr) (t := { s with status := s.status.clearSticky }) rfl⟩

/-! ### Commands in a row that cannot fail -/

/-- The command cannot fail, its effects are those of `body`, and they do not depend on ERR. -/
structure HasBody (i : Instr) (body : State → State) : Prop where
  result : ∀ s, commandResult i s = .ok (body s)
  succeed_comm : ∀ s, body (succeed s) = succeed (body s)

theorem obfuscate_succeed (f : Byte → Word → Byte) (s : State) : obfuscate f (succeed s) = succeed (obfuscate f s) := by
  simp only [obfuscate, seedBody_gen, seedBody_frm, succeed_frm]
  rfl

theorem HasBody.crcsym : HasBody .crcsym crcsymBody := ⟨fun _ => rfl, fun _ => rfl⟩
theorem HasBody.papply : HasBody .papply papplyBody := ⟨fun _ => rfl, fun _ => rfl⟩
theorem HasBody.pack68 : HasBody .pack68 pack68Body := ⟨fun _ => rfl, fun _ => rfl⟩
theorem HasBody.obfdec : HasBody .obfdec obfdecBody := ⟨fun _ => rfl, obfuscate_succeed subKey⟩
theorem HasBody.ckchk : HasBody .ckchk ckchkBody := ⟨fun _ => rfl, fun _ => rfl⟩
theorem HasBody.obfenc : HasBody .obfenc obfencBody := ⟨fun _ => rfl, obfuscate_succeed addKey⟩
theorem HasBody.pack86 : HasBody .pack86 pack86Body := ⟨fun _ => rfl, fun _ => rfl⟩
theorem HasBody.punapply : HasBody .punapply punapplyBody := ⟨fun _ => rfl, fun _ => rfl⟩
theorem HasBody.render : HasBody .render renderBody := ⟨fun _ => rfl, fun _ => rfl⟩

/-- After a command that succeeded, ERR is 0 already and can be set once at the end. -/
theorem HasBody.execAll_cons {i : Instr} {body : State → State} (h : HasBody i body) (rest : List Instr) (s : State) :
    execAll (i :: rest) (succeed s) = execAll rest (succeed (body s)) := by
  rw [execAll_cons_of_ok (h.result _), h.succeed_comm]
  rfl

/-! ### DECODE as its steps (R216) -/

/-- The steps of DECODE between PARSE and OBFDEC. -/
def packedBody (s : State) : State := pack68Body (papplyBody (crcsymBody s))

theorem decodeTail_eq (s : State) :
    decodeTail s =
      { ckchkBody (obfdecBody (packedBody s)) with
        res := (ckchkBody (obfdecBody (packedBody s))).cksum.setWidth 32 } := rfl

theorem execAll_decodeSteps {s t : State} (h : commandResult .parse s = .ok t) :
    execAll [.parse, .crcsym, .papply, .pack68, .obfdec, .ckchk] s =
      .next (succeed (ckchkBody (obfdecBody (packedBody t)))) := by
  rw [execAll_cons_of_ok h, HasBody.crcsym.execAll_cons, HasBody.papply.execAll_cons, HasBody.pack68.execAll_cons,
    HasBody.obfdec.execAll_cons, HasBody.ckchk.execAll_cons]
  rfl

/-- The command word is in the error of PARSE only where TXTLEN is illegal (R239). -/
theorem parseBody_error_word {w : Word} {s : State} {e : CmdError} (h : parseBody w s = .error e) (w' : Word) :
    parseBody w' s = .error ⟨e.code, if e.code = .illegalOperand then w' else e.info⟩ := by
  unfold parseBody at h ⊢
  by_cases hlen : s.txtlen.toNat > 256
  · rw [if_pos hlen] at h ⊢
    cases h
    rfl
  · rw [if_neg hlen] at h ⊢
    by_cases hchars : (strippedText s).length ≠ 60
    · rw [if_pos hchars] at h ⊢
      cases h
      rfl
    · rw [if_neg hchars] at h ⊢
      split at h <;> cases h
      rfl

theorem commandResult_decodePw_of_spells {s : State} {codes : Vector Code 30} (hv : s.cfg.SymTableOk)
    (h : s.Spells codes) : commandResult .decodePw s = .ok (decodeTail { s with sym := codes }) := by
  simp only [commandResult, decodeBody, parseBody_of_spells _ hv h]

/-- The tables and the codes are what the steps after PARSE read. -/
theorem exec_decodePw_of_spells {s : State} {codes : Vector Code 30} (hv : s.cfg.SymTableOk) (h : s.Spells codes) :
    ∃ t, exec .decodePw s = .next (succeed (decodeTail t)) ∧ t.cfg = s.cfg ∧ t.sym = codes :=
  ⟨_, exec_of_ok (commandResult_decodePw_of_spells hv h), rfl, rfl⟩

theorem commandResult_decodePw_of_error {s : State} {e : CmdError} (h : commandResult .parse s = .error e) :
    commandResult .decodePw s =
      .error ⟨e.code, if e.code = .illegalOperand then encode .decodePw else e.info⟩ := by
  simp only [commandResult, decodeBody, parseBody_error_word h]

/-- Settles O52: the run leaves the state of DECODE but for RES, and the error of PARSE is that of DECODE but for the
command word. -/
theorem decodeRunsItsSteps : Obligations.DecodeRunsItsSteps := by
  refine ⟨fun s codes hv h => ?_, fun s t ht herr => ?_⟩
  · refine ⟨_, execAll_decodeSteps (parseBody_of_spells _ hv h), rfl, ?_⟩
    rw [exec_of_ok (commandResult_decodePw_of_spells hv h), decodeTail_eq, BitVec.ofNat_toNat]
    rfl
  · obtain ⟨_, -, rfl⟩ | ⟨e, he, rfl⟩ := exec_next ht
    · exact absurd rfl herr
    · exact exec_eq_failed (commandResult_decodePw_of_error he)

/-! ### ENCODE as its steps (R218) -/

/-- The first step of ENCODE: CKGEN, with G = 1 only. -/
def checkedBody (g : Bool) (s : State) : State := if g then ckgenBody s else s

theorem encodeBody_eq (g : Bool) (s : State) :
    encodeBody g s =
      { renderBody (punapplyBody (pack86Body (obfencBody (checkedBody g s)))) with
        res := (obfencBody (checkedBody g s)).frm[(0 : Fin 23)].setWidth 32 } := rfl

theorem execAll_encodeSteps (g : Bool) (s : State) :
    execAll ((if g = true then [.ckgen] else []) ++ [.obfenc, .pack86, .punapply, .render]) s =
      .next (succeed (renderBody (punapplyBody (pack86Body (obfencBody (checkedBody g s)))))) := by
  have start : execAll ((if g = true then [.ckgen] else []) ++ [.obfenc, .pack86, .punapply, .render]) s =
      execAll [.pack86, .punapply, .render] (succeed (obfencBody (checkedBody g s))) := by
    cases g with
    | false => exact execAll_cons_of_ok (HasBody.obfenc.result s)
    | true => exact (execAll_cons_of_ok (t := ckgenBody s) rfl).trans (HasBody.obfenc.execAll_cons _ _)
  rw [start, HasBody.pack86.execAll_cons, HasBody.punapply.execAll_cons, HasBody.render.execAll_cons]
  rfl

theorem commandResult_encodePw (g : Bool) (s : State) : commandResult (.encodePw g) s = .ok (encodeBody g s) := rfl

/-- Settles O53: the run leaves the state of ENCODE but for RES. -/
theorem encodeRunsItsSteps : Obligations.EncodeRunsItsSteps := by
  refine fun s g => ⟨_, execAll_encodeSteps g s, rfl, ?_⟩
  rw [exec_of_ok (commandResult_encodePw g s), encodeBody_eq, BitVec.ofNat_toNat]
  rfl

/-! ### What each step reads (R223) -/

/-- Texts that agree below TXTLEN spell the same codes. -/
theorem spells_of_same_text {a b : State} {codes : Vector Code 30} (h : a.Spells codes) (hcfg : a.cfg = b.cfg)
    (hlen : a.txtlen = b.txtlen) (htxt : ∀ i : Fin 256, i.val < a.txtlen.toNat → a.txt[i] = b.txt[i]) :
    b.Spells codes := by
  have text : a.txt.toList.take a.txtlen.toNat = b.txt.toList.take b.txtlen.toNat := by
    rw [← hlen]
    apply List.ext_getElem (by simp)
    intro i hi _
    simp only [List.length_take, Vector.length_toList] at hi
    simpa using htxt ⟨i, by omega⟩ (by simp only; omega)
  have chars : passwordChars a = passwordChars b := by
    rw [passwordChars_eq_stripText, passwordChars_eq_stripText, text]
  refine ⟨hlen ▸ h.length, chars ▸ h.chars, fun k => ?_⟩
  rw [← hcfg, h.tokens k, passwordToken, chars]
  rfl

/-- PACK68 does not read PRM[30]. -/
theorem pack68Body_frm_congr {a b : State} (h : ∀ i : Fin 30, a.prm[i.val]? = b.prm[i.val]?) :
    (pack68Body a).frm = (pack68Body b).frm := by
  apply frame_ext
  intro k hk
  rw [frameBit_pack68Body a hk, frameBit_pack68Body b hk]
  split_ifs with hlt
  · rw [h ⟨k / 6, by omega⟩]
  · rfl

theorem pack86Body_prm_congr {a b : State} (h : a.frm = b.frm) : (pack86Body a).prm = (pack86Body b).prm := by
  simp only [pack86Body, h]

theorem obfuscate_frm_congr (f : Byte → Word → Byte) {a b : State} (h : a.frm = b.frm) :
    (obfuscate f a).frm = (obfuscate f b).frm := by
  simp only [obfuscate, seedBody_gen, seedBody_frm, h]

theorem obfuscate_gen_congr (f : Byte → Word → Byte) {a b : State} (h : a.frm = b.frm) :
    (obfuscate f a).gen = (obfuscate f b).gen := by
  rw [obfuscate_gen, obfuscate_gen, h]

/-- Where P is a permutation every element is written, so none of the old ones is left (R8). -/
theorem unpermuted_congr {cfg : Tables} (hP : cfg.PermOk) (prm : Vector Code 31) (t u : Vector Code 30) :
    unpermuted cfg prm t = unpermuted cfg prm u := by
  apply Vector.ext
  intro j hj
  obtain ⟨i, hij⟩ := exists_perm_eq hP ⟨j, hj⟩
  have same : some (unpermuted cfg prm t)[cfg.perm[i]] = some (unpermuted cfg prm u)[cfg.perm[i]] :=
    (getElem?_unpermuted hP i).trans (getElem?_unpermuted hP i).symm
  simpa [hij] using same

/-! ### What DECODE leaves, one value after the other -/

section
variable (s : State)

theorem decodeTail_sym : (decodeTail s).sym = s.sym := rfl
theorem decodeTail_prm : (decodeTail s).prm = (papplyBody s).prm := rfl
theorem decodeTail_crc : (decodeTail s).crc = symCrc s.cfg s.sym := rfl
theorem decodeTail_revive : (decodeTail s).revive = (symCrc s.cfg s.sym ^^^ s.cfg.crcXorOut).setWidth 30 := rfl
theorem decodeTail_frm : (decodeTail s).frm = (obfdecBody (packedBody s)).frm := rfl
theorem decodeTail_cksum : (decodeTail s).cksum = frameChk (decodeTail s).frm := rfl
theorem decodeTail_res : (decodeTail s).res = (frameChk (decodeTail s).frm).setWidth 32 := rfl
theorem decodeTail_ckdone : (decodeTail s).status.ckdone = true := rfl
theorem decodeTail_ckok :
    (decodeTail s).status.ckok = (frameChk (decodeTail s).frm == (decodeTail s).frm[(0 : Fin 23)]) := rfl
theorem decodeTail_seeded : (decodeTail s).status.seeded = true := rfl
theorem packedBody_frm : (packedBody s).frm = (pack68Body (papplyBody s)).frm := rfl

end

section
variable {a b : State} (hcfg : a.cfg = b.cfg) (hsym : a.sym = b.sym)
include hcfg hsym

theorem papplyBody_prm_congr (i : Fin 30) : (papplyBody a).prm[i.val]? = (papplyBody b).prm[i.val]? := by
  simp only [getElem?_papplyBody_prm, hcfg, hsym]

theorem packedBody_frm_congr : (packedBody a).frm = (packedBody b).frm := by
  rw [packedBody_frm, packedBody_frm, pack68Body_frm_congr (papplyBody_prm_congr hcfg hsym)]

theorem decodeTail_prm_congr (i : Fin 30) : (decodeTail a).prm[i.val]? = (decodeTail b).prm[i.val]? := by
  rw [decodeTail_prm, decodeTail_prm, papplyBody_prm_congr hcfg hsym]

theorem decodeTail_frm_congr : (decodeTail a).frm = (decodeTail b).frm := by
  rw [decodeTail_frm, decodeTail_frm, obfdecBody, obfdecBody,
    obfuscate_frm_congr subKey (packedBody_frm_congr hcfg hsym)]

theorem decodeTail_gen_congr : (decodeTail a).gen = (decodeTail b).gen := by
  rw [decodeTail_gen, decodeTail_gen]
  exact obfuscate_gen_congr subKey (packedBody_frm_congr hcfg hsym)

end

/-! ### What ENCODE leaves, one value after the other -/

theorem checkedBody_frm (g : Bool) (s : State) :
    (checkedBody g s).frm = if g then s.frm.set 0 (frameChk s.frm) else s.frm := by
  cases g <;> rfl

section
variable (g : Bool) (s : State)

theorem encodeBody_cfg : (encodeBody g s).cfg = s.cfg := by cases g <;> rfl
theorem encodeBody_frm : (encodeBody g s).frm = (obfencBody (checkedBody g s)).frm := rfl
theorem encodeBody_prm : (encodeBody g s).prm = (pack86Body (encodeBody g s)).prm := rfl
theorem encodeBody_sym : (encodeBody g s).sym = unpermuted s.cfg (encodeBody g s).prm s.sym := by cases g <;> rfl
theorem encodeBody_out : (encodeBody g s).out = (renderBody (encodeBody g s)).out := rfl
theorem encodeBody_seeded : (encodeBody g s).status.seeded = true := rfl
theorem encodeBody_outlen : (encodeBody g s).outlen = 65#7 := rfl
theorem encodeBody_res : (encodeBody g s).res = (encodeBody g s).frm[(0 : Fin 23)].setWidth 32 := rfl

end

section
variable {a b : State} (g : Bool) (hfrm : a.frm = b.frm)
include hfrm

theorem checkedBody_frm_congr : (checkedBody g a).frm = (checkedBody g b).frm := by
  rw [checkedBody_frm, checkedBody_frm, hfrm]

theorem encodeBody_frm_congr : (encodeBody g a).frm = (encodeBody g b).frm := by
  rw [encodeBody_frm, encodeBody_frm, obfencBody, obfencBody,
    obfuscate_frm_congr addKey (checkedBody_frm_congr g hfrm)]

theorem encodeBody_gen_congr : (encodeBody g a).gen = (encodeBody g b).gen := by
  rw [encodeBody_gen, encodeBody_gen]
  exact obfuscate_gen_congr addKey (checkedBody_frm_congr g hfrm)

theorem encodeBody_prm_congr : (encodeBody g a).prm = (encodeBody g b).prm := by
  rw [encodeBody_prm, encodeBody_prm, pack86Body_prm_congr (encodeBody_frm_congr g hfrm)]

variable (hP : a.cfg.PermOk) (hcfg : a.cfg = b.cfg)
include hP hcfg

theorem encodeBody_sym_congr : (encodeBody g a).sym = (encodeBody g b).sym := by
  rw [encodeBody_sym, encodeBody_sym, encodeBody_prm_congr g hfrm, ← hcfg, unpermuted_congr hP]

theorem encodeBody_out_congr : (encodeBody g a).out = (encodeBody g b).out := by
  rw [encodeBody_out, encodeBody_out, renderBody, renderBody, encodeBody_sym_congr g hfrm hP hcfg, encodeBody_cfg,
    encodeBody_cfg, hcfg]

end

/-- Settles O54: with the same text both DECODEs go on from the same tables and codes, both ENCODEs from the same tables
and frame, and each value that they leave is a function of those and of the values before it. -/
theorem pipelinesIgnoreEarlierState : Obligations.PipelinesIgnoreEarlierState := by
  constructor
  · intro a b codes hv h hcfg hlen htxt
    obtain ⟨p, hp, pcfg, psym⟩ := exec_decodePw_of_spells hv h
    obtain ⟨q, hq, qcfg, qsym⟩ := exec_decodePw_of_spells (hcfg ▸ hv) (spells_of_same_text h hcfg hlen htxt)
    have cfg : p.cfg = q.cfg := pcfg.trans (hcfg.trans qcfg.symm)
    have sym : p.sym = q.sym := psym.trans qsym.symm
    have prm := decodeTail_prm_congr cfg sym
    have frm := decodeTail_frm_congr cfg sym
    have gen := decodeTail_gen_congr cfg sym
    refine ⟨_, _, hp, hq, ?_⟩
    simp only [succeed_sym, succeed_prm, succeed_frm, succeed_gen, succeed_crc, succeed_revive, succeed_cksum,
      succeed_res, succeed_err, succeed_ckdone, succeed_ckok, succeed_seeded, decodeTail_sym, decodeTail_crc,
      decodeTail_revive, decodeTail_cksum, decodeTail_res, decodeTail_ckdone, decodeTail_ckok, decodeTail_seeded,
      cfg, sym, prm, frm, gen, implies_true, and_self]
  · intro a b g hP hcfg hfrm
    refine ⟨_, _, exec_of_ok (commandResult_encodePw g a), exec_of_ok (commandResult_encodePw g b), ?_⟩
    have frm := encodeBody_frm_congr g hfrm
    have prm := encodeBody_prm_congr g hfrm
    have sym := encodeBody_sym_congr g hfrm hP hcfg
    have out := encodeBody_out_congr g hfrm hP hcfg
    have gen := encodeBody_gen_congr g hfrm
    simp only [succeed_frm, succeed_prm, succeed_sym, succeed_out, succeed_outlen, succeed_gen, succeed_res,
      succeed_err, succeed_seeded, succeed_cksum, succeed_ckdone, succeed_ckok, encodeBody_outlen, encodeBody_res,
      encodeBody_seeded, frm, prm, sym, out, gen, true_and]
    rintro rfl
    exact ⟨congrArg frameChk hfrm, rfl, rfl⟩

/-! ### DECODE of the text that ENCODE wrote (R220) -/

/-- The checksum does not read FRM[0], where it is stored (R193). -/
theorem frameChk_set_first (frm : Vector Byte 23) (c : Byte) : frameChk (frm.set 0 c) = frameChk frm := by
  simp only [frameChk, frameWindow, Vector.toList_set, List.drop_set_of_lt Nat.zero_lt_one]

/-- The tail mask leaves the padding 0 (R179). -/
theorem obfuscate_frm_padding (f : Byte → Word → Byte) (s : State) : (obfuscate f s).frm[22] &&& 0xF0#8 = 0#8 := by
  rw [obfuscate_frm_tail, BitVec.and_assoc, show 0x0F#8 &&& 0xF0#8 = 0#8 from rfl, BitVec.and_zero]

theorem checkedBody_frm_last (g : Bool) (s : State) : (checkedBody g s).frm[22] = s.frm[22] := by
  cases g with
  | false => rfl
  | true => exact Vector.getElem_set_ne (by decide) (by decide) (by decide)

section
variable {s d : State} {g : Bool} (hP : s.cfg.PermOk) (hcfg : d.cfg = s.cfg) (hsym : d.sym = (encodeBody g s).sym)
include hP hcfg hsym

/-- PAPPLY undoes PUNAPPLY on PRM[0..29]. -/
theorem papplyBody_prm_of_encoded (i : Fin 30) :
    (papplyBody d).prm[i.val]? = (succeed (pack86Body (encodeBody g s))).prm[i.val]? := by
  have placed : some (encodeBody g s).sym[s.cfg.perm[i]] = (encodeBody g s).prm[i.val]? := by
    rw [encodeBody_sym]
    exact getElem?_unpermuted hP i
  simp only [getElem?_papplyBody_prm, hsym, hcfg, placed]
  rfl

/-- PACK68 then undoes PACK86, for a frame whose padding OBFENC masked. -/
theorem packedBody_frm_of_encoded : (packedBody d).frm = (obfencBody (checkedBody g s)).frm := by
  rw [packedBody_frm, pack68Body_frm_congr (papplyBody_prm_of_encoded hP hcfg hsym), pack68Body_pack86Body_frm,
    encodeBody_frm, set_padding_eq_self_iff, obfencBody, obfuscate_frm_padding]

/-- OBFDEC then undoes OBFENC, for a frame whose padding was 0 from the start. -/
theorem decodeTail_frm_of_encoded (hpad : s.frm[22] &&& 0xF0#8 = 0#8) : (decodeTail d).frm = (checkedBody g s).frm := by
  rw [decodeTail_frm, obfdecBody_frm_of_encoded (packedBody_frm_of_encoded hP hcfg hsym), set_padding_eq_self_iff,
    checkedBody_frm_last, hpad]

end

/-- Settles O55: DECODE leaves the frame that ENCODE started from, after CKGEN if G = 1, and compares its checksum. -/
theorem encodeDecodeRoundTrip : Obligations.EncodeDecodeRoundTrip := by
  intro s t g txt hv hP hpad ht hcopy
  have tenc : succeed (encodeBody g s) = t := Host.Outcome.next.inj ht
  have tcfg : t.cfg = s.cfg := by rw [← tenc, succeed_cfg, encodeBody_cfg]
  have tsym : t.sym = (encodeBody g s).sym := by rw [← tenc, succeed_sym]
  have tout : t.out.toList = renderText t.cfg t.sym := by
    rw [← tenc, succeed_out, encodeBody_out, renderBody_out_toList]
    rfl
  have spelled : State.Spells { t with txt := txt, txtlen := 65#9 } t.sym :=
    spells_of_rendered (tcfg ▸ hv) (show (65#9).toNat ≤ 256 by decide) ((take_of_copied hcopy).trans tout)
  obtain ⟨d, hd, dcfg, dsym⟩ := exec_decodePw_of_spells (tcfg ▸ hv) spelled
  have frm := decodeTail_frm_of_encoded hP (dcfg.trans tcfg) (dsym.trans tsym) hpad
  refine ⟨_, hd, succeed_err _, ?_⟩
  rw [succeed_frm, succeed_ckok, decodeTail_ckok, frm, checkedBody_frm, beq_iff_eq, ← frameChk_toNat s,
    BitVec.ofNat_toNat, BitVec.setWidth_eq]
  constructor
  · rintro rfl
    exact ⟨rfl, (frameChk_set_first _ _).trans (Vector.getElem_set_self _).symm⟩
  · rintro rfl
    exact ⟨rfl, eq_comm.trans BitVec.toNat_eq⟩

end Sys2Proof.Machine
end

section
/-! SUPPORT. Errors (60_exceptions.md): which error each command gives on which condition, from the conditions of the
commands one by one, and the statements that R236 to R243 make about all of them. -/

namespace Sys2Proof.Machine

/-! ### PARSE and DECODE (R239, R240, R241) -/

section
variable {i : Instr} {s : State} {e : CmdError}

/-- DECODE fails exactly where its first step does, with its own word. -/
theorem commandResult_error_iff_parseBody (hi : i = .parse ∨ i = .decodePw) :
    commandResult i s = .error e ↔ parseBody (encode i) s = .error e := by
  obtain rfl | rfl := hi
  · exact Iff.rfl
  · simp only [commandResult, decodeBody]
    cases parseBody (encode .decodePw) s with
    | ok t => simp only [reduceCtorEq]
    | error e' => exact Iff.rfl

theorem parseBody_of_long (w : Word) (h : 256 < s.txtlen.toNat) : parseBody w s = .error ⟨.illegalOperand, w⟩ :=
  if_pos h

theorem parseBody_of_count (w : Word) (hlen : s.txtlen.toNat ≤ 256) (hcount : (passwordChars s).length ≠ 60) :
    parseBody w s = .error ⟨.invalidLength, BitVec.ofNat 32 (passwordChars s).length⟩ := by
  rw [parseBody, if_neg (Nat.not_lt.2 hlen), strippedText_eq, if_pos hcount]

/-- LOOKUP finds a token that is an entry as it stands; the table may have it twice. -/
theorem lookup_ne_none_of_entry {cfg : Tables} {tok : Token} (hup : (upper tok.1, upper tok.2) = tok)
    (h : ∃ c : Fin 64, cfg.symTable[c] = tok) : lookup cfg tok ≠ none := by
  obtain ⟨c, hc⟩ := h
  exact fun hn => ne_of_lookup_none hn c (hc.trans hup.symm)

theorem parseBody_of_unknown (w : Word) (hlen : s.txtlen.toNat ≤ 256) (hcount : (passwordChars s).length = 60)
    (k : Fin 30) (known : ∀ j : Fin 30, j < k → ∃ c : Fin 64, s.cfg.symTable[c] = passwordToken s j.val)
    (unknown : ∀ c : Fin 64, s.cfg.symTable[c] ≠ passwordToken s k.val) :
    parseBody w s = .error ⟨.invalidSymbol, BitVec.ofNat 32 k.val⟩ := by
  have found (m : Nat) (tok : Token) (hm : m < k.val) (htok : (pairTokens (passwordChars s))[m]? = some tok) :
      lookup s.cfg tok ≠ none := by
    have hm30 : m < 30 := hm.trans k.isLt
    obtain rfl : passwordToken s m = tok := Option.some.inj ((pairTokens_passwordChars hcount hm30).symm.trans htok)
    exact lookup_ne_none_of_entry (upper_passwordToken hcount ⟨m, hm30⟩) (known ⟨m, hm30⟩ hm)
  have missing : lookup s.cfg (passwordToken s k.val) = none :=
    lookup_eq_none ((upper_passwordToken hcount k).symm ▸ unknown)
  rw [parseBody, if_neg (Nat.not_lt.2 hlen), strippedText_eq, if_neg (not_not.2 hcount),
    lookupAll_of_unknown 0 k.val _ _ found (pairTokens_passwordChars hcount k.isLt) missing, Nat.zero_add]

end

/-- Settles O24: each clause is the result of PARSE's body on its condition. -/
theorem parseFailsInOrder : Obligations.ParseFailsInOrder := by
  intro i s hi
  have fails {code info} (h : parseBody (encode i) s = .error ⟨code, info⟩) : exec i s = .next (failed code info s) :=
    exec_eq_failed ((commandResult_error_iff_parseBody hi).2 h)
  exact ⟨fun hlen => fails (parseBody_of_long _ hlen), fun hlen hcount => fails (parseBody_of_count _ hlen hcount),
    fun hlen hcount k known unknown => fails (parseBody_of_unknown _ hlen hcount k known unknown)⟩

/-! ### Operands out of range (R243) -/

theorem bitCountWellFormed_iff (nb : Byte) : bitCountWellFormed nb = true ↔ 1 ≤ nb.toNat ∧ nb.toNat ≤ 32 := by
  simp only [bitCountWellFormed, Bool.and_eq_true, decide_eq_true_eq]

theorem bitCount_outside_of_illFormed {nb : Byte} (h : bitCountWellFormed nb = false) :
    nb.toNat < 1 ∨ 32 < nb.toNat := by
  have := (bitCountWellFormed_iff nb).not.1 (Bool.eq_false_iff.1 h)
  omega

/-- The operands are checked before the state. -/
theorem commandResult_of_illFormed {i : Instr} (s : State) (h : i.wellFormed = false) :
    commandResult i s = .error (illegalOperand i) := by
  cases i
  case cksum => exact commandResult_cksum_of_illegal s (Bool.eq_false_iff.1 h)
  case brinit => exact commandResult_brinit_of_illegal s (Bool.eq_false_iff.1 h)
  case bwinit => exact commandResult_bwinit_of_illegal s (Bool.eq_false_iff.1 h)
  case brread => exact commandResult_brread_of_illegal s (bitCount_outside_of_illFormed h)
  case bwwrite => exact commandResult_bwwrite_of_illegal (bitCount_outside_of_illFormed h)
  all_goals cases h

/-! ### The rows of R236 -/

section
variable {i : Instr} {s : State} {e : CmdError}

theorem raisedBy_of_parseBody_error (hi : i = .parse ∨ i = .decodePw) (h : parseBody (encode i) s = .error e) :
    raisedBy i s e.code e.info := by
  obtain ⟨hlen, rfl⟩ | ⟨-, hcount, rfl⟩ | ⟨-, -, k, hk, rfl, missing⟩ := parseBody_error h
  · exact ⟨rfl, .inr ⟨hi, hlen⟩⟩
  · have fits := passwordChars_length_le s
    exact ⟨hi, hcount, (BitVec.toNat_ofNat ..).trans (Nat.mod_eq_of_lt (by omega))⟩
  · have index : (BitVec.ofNat 32 k).toNat = k := (BitVec.toNat_ofNat ..).trans (Nat.mod_eq_of_lt (by omega))
    refine .inl ⟨hi, ?_⟩
    rw [index]
    exact ⟨hk, ne_of_lookup_none missing⟩

theorem raisedBy_of_symdec_error {t0 t1 : Byte} (h : commandResult (.symdec t0 t1) s = .error e) :
    raisedBy (.symdec t0 t1) s e.code e.info := by
  cases hl : lookup s.cfg (t0, t1) with
  | some c => rw [commandResult_symdec_known hl] at h; cases h
  | none =>
    rw [commandResult_symdec_unknown hl] at h
    cases h
    exact .inr ⟨t0, t1, rfl, rfl, ne_of_lookup_none hl⟩

theorem raisedBy_of_pnext_error (h : commandResult .pnext s = .error e) : raisedBy .pnext s e.code e.info := by
  cases hs : s.status.seeded with
  | true => rw [commandResult_pnext_of_seeded hs] at h; cases h
  | false =>
    simp only [commandResult, hs] at h
    cases h
    exact ⟨rfl, hs, rfl⟩

theorem raisedBy_of_brmore_error (h : commandResult .brmore s = .error e) : raisedBy .brmore s e.code e.info := by
  cases ha : s.br.act with
  | true => rw [commandResult_brmore_of_act ha] at h; cases h
  | false =>
    simp only [commandResult, ha] at h
    cases h
    exact ⟨rfl, .inl ⟨.inl rfl, ha⟩⟩

theorem raisedBy_of_brread_error {nb : Byte} (hwf : bitCountWellFormed nb = true)
    (h : commandResult (.brread nb) s = .error e) : raisedBy (.brread nb) s e.code e.info := by
  obtain ⟨h1, h32⟩ := (bitCountWellFormed_iff nb).1 hwf
  cases ha : s.br.act with
  | true => rw [commandResult_brread_of_act h1 h32 ha] at h; cases h
  | false =>
    rw [commandResult_brread_of_closed h1 h32 ha] at h
    cases h
    exact ⟨rfl, .inl ⟨.inr ⟨nb, rfl⟩, ha⟩⟩

theorem raisedBy_of_bwwrite_error {nb : Byte} (hwf : bitCountWellFormed nb = true)
    (h : commandResult (.bwwrite nb) s = .error e) : raisedBy (.bwwrite nb) s e.code e.info := by
  obtain ⟨h1, h32⟩ := (bitCountWellFormed_iff nb).1 hwf
  cases ha : s.bw.act with
  | false =>
    rw [commandResult_bwwrite_of_closed h1 h32 ha] at h
    cases h
    exact ⟨rfl, .inr ⟨.inr ⟨nb, rfl⟩, ha⟩⟩
  | true =>
    obtain wide | hopr := le_or_gt (2 ^ nb.toNat) s.opr.toNat
    · rw [commandResult_bwwrite_of_wide h1 h32 ha wide] at h
      cases h
      exact ⟨nb, rfl, wide, rfl⟩
    obtain fits | full := le_or_gt (s.bw.idx.toNat + unitsCompleted s.bw nb.toNat) s.bw.stop.toNat
    · rw [commandResult_bwwrite_of_fits h1 h32 ha hopr fits] at h
      cases h
    · rw [commandResult_bwwrite_of_full h1 h32 ha hopr full] at h
      cases h
      exact ⟨rfl, .inl ⟨nb, rfl, full⟩⟩

theorem raisedBy_of_bwflush_error (h : commandResult .bwflush s = .error e) : raisedBy .bwflush s e.code e.info := by
  cases ha : s.bw.act with
  | false =>
    rw [commandResult_bwflush_of_closed ha] at h
    cases h
    exact ⟨rfl, .inr ⟨.inl rfl, ha⟩⟩
  | true =>
    obtain empty | held := Nat.eq_zero_or_pos s.bw.n.toNat
    · rw [commandResult_bwflush_of_empty ha empty] at h
      cases h
    obtain full | fits := le_or_gt s.bw.stop.toNat s.bw.idx.toNat
    · rw [commandResult_bwflush_of_full ha held full] at h
      cases h
      exact ⟨rfl, .inr ⟨rfl, held, full⟩⟩
    · rw [commandResult_bwflush_of_fits ha held fits] at h
      cases h

/-- A command fails only on a row of R236. Operands out of range are one row; with operands in range, the commands that
can fail are PARSE and DECODE, SYMDEC, PNEXT and those of the two bit streams. -/
theorem raisedBy_of_error (h : commandResult i s = .error e) : raisedBy i s e.code e.info := by
  cases hwf : i.wellFormed with
  | false =>
    rw [commandResult_of_illFormed s hwf] at h
    cases h
    exact ⟨rfl, .inl hwf⟩
  | true =>
    cases i
    case parse => exact raisedBy_of_parseBody_error (.inl rfl) h
    case decodePw =>
      exact raisedBy_of_parseBody_error (.inr rfl) ((commandResult_error_iff_parseBody (.inr rfl)).1 h)
    case symdec => exact raisedBy_of_symdec_error h
    case pnext => exact raisedBy_of_pnext_error h
    case brread => exact raisedBy_of_brread_error hwf h
    case brmore => exact raisedBy_of_brmore_error h
    case bwwrite => exact raisedBy_of_bwwrite_error hwf h
    case bwflush => exact raisedBy_of_bwflush_error h
    case cksum => rw [commandResult_cksum_of_wellFormed s hwf] at h; cases h
    case brinit => rw [commandResult_brinit_of_wellFormed s hwf] at h; cases h
    case bwinit => rw [commandResult_bwinit_of_wellFormed s hwf] at h; cases h
    all_goals cases h

end

/-! ### The statements about all commands -/

/-- Settles O15: the two ways in which `complete` ends a command. -/
theorem commandSucceedsOrOnlyFails : Obligations.CommandSucceedsOrOnlyFails := by
  intro i s
  cases hr : commandResult i s with
  | ok t => exact ⟨succeed t, exec_of_ok hr, .inl (succeed_err t)⟩
  | error e => exact ⟨_, exec_of_error hr, .inr ⟨e.code, e.info, raisedBy_of_error hr, raise_eq_failed e s⟩⟩

/-- Settles O16: a next state with an error in ERR is the error effects of the command's result. -/
theorem errorsComeFromTheirConditions : Obligations.ErrorsComeFromTheirConditions := by
  intro i s u h herr
  obtain ⟨t, -, rfl⟩ | ⟨e, hr, rfl⟩ := exec_next h
  · exact absurd (succeed_err t) herr
  · exact raisedBy_of_error hr

/-- Settles O17: each out-of-range condition is a failure of `commandResult`, and the row of R236 says that there is no
other. -/
theorem illegalOperandExactly : Obligations.IllegalOperandExactly := by
  refine fun i s => ⟨fun hbad => ?_, fun hwf hlen => ?_⟩
  · obtain hill | ⟨hi, hlong⟩ := hbad
    · exact exec_eq_failed (commandResult_of_illFormed s hill)
    · exact exec_eq_failed ((commandResult_error_iff_parseBody hi).2 (parseBody_of_long _ hlong))
  · obtain ⟨t, ht⟩ := exec_total i s
    refine ⟨t, ht, fun herr => ?_⟩
    have row := errorsComeFromTheirConditions i s t ht (by simp [herr])
    rw [herr] at row
    obtain ⟨-, hill | ⟨-, hlong⟩⟩ := row
    · rw [hwf] at hill; cases hill
    · exact absurd hlen (Nat.not_le.2 hlong)

end Sys2Proof.Machine
end

section
/-! SUPPORT. The steps that serve neither a read nor a write: the host has none to make (log entry 3, R261), or the next
thing it does is a reset (70_reset_and_hazards.md R260). -/

namespace Sys2Proof.Machine

/-- Settles O7: with an empty host list there is no access to serve. -/
theorem idleStepWaits : Obligations.IdleStepWaits := fun _ => step_of_host_nil

theorem serve_reset (s : State) : serve .reset s = .next (resetState s) := rfl

/-- Settles O14: the step serves the reset from the state with the later accesses, and `resetState` keeps those and the
tables. The model's field `rdata` (log entry 2) has its value after reset too. -/
theorem resetEventRestoresReset : Obligations.ResetEventRestoresReset := by
  intro s rest
  calc step { s with host := .reset :: rest }
    _ = serve .reset { s with host := rest } := step_of_host_cons rfl
    _ = .next (resetState { s with host := rest }) := serve_reset _
    _ = .next { State.reset with cfg := s.cfg, host := rest } := by simp only [resetState]

end Sys2Proof.Machine
end
